-- ==== Sys2Proof/Word.lean ====
section
/-! DEFINITION. The words of the block: bytes, the 32-bit bus word and the binary64 bit pattern. -/

namespace Sys2Proof

/-- A byte of the block's address space (spec/20_memory.md R50). -/
abbrev Byte := BitVec 8

/-- A 32-bit bus word: a register, a command word, the data of a host access (R21, R52, R80). -/
abbrev Word := BitVec 32

/-- The bit pattern of an IEEE 754 binary64 value (spec/00_scope.md R10). -/
abbrev F64 := BitVec 64

end Sys2Proof
end

