-- ==== Sys2Proof/Syntax.lean ====
section
/-! DEFINITION. The commands of WGB-CMD version 1: one constructor per row of spec/opcode_table.json. -/

namespace Sys2Proof

/-- The commands of spec/30_encoding.md R85. The shape field `SH` is a part of the mnemonic, so it is a
part of the constructor; `note` is the note code of R83, read as an unsigned integer. -/
inductive Instr where
  /-- NOP (R180). -/
  | nop
  /-- PLOOKUP (R103). -/
  | plookup (note : Nat)
  /-- TQUANT (R112). -/
  | tquant
  /-- OSC.SIN (R135). -/
  | oscSin (note : Nat)
  /-- OSC.PUL (R136). -/
  | oscPul (note : Nat)
  /-- OSC.SAW (R137). -/
  | oscSaw (note : Nat)
  /-- OSC.SH3 (R138). -/
  | oscSh3 (note : Nat)
  /-- PCMQ (R151). -/
  | pcmq
  /-- SYNTH.SIN (R163). -/
  | synthSin
  /-- SYNTH.PUL (R164). -/
  | synthPul
  /-- SYNTH.SAW (R165). -/
  | synthSaw
  /-- SYNTH.SH3 (R166). -/
  | synthSh3
  /-- CLEAR (R181). -/
  | clear
deriving DecidableEq, Repr

end Sys2Proof
end

