-- ==== Sys2Proof/WellFormed.lean ====
section
/-! DEFINITION. Which terms of `Instr` the encoding can hold: the `NOTE` field has 4 bits. -/

namespace Sys2Proof

/-- A note code fits the 4-bit `NOTE` field: 0 to 15 (spec/30_encoding.md R83). Codes 13 to 15 are legal
encodings. -/
def noteFits (note : Nat) : Bool := decide (note < 16)

/-- The instruction has an encoding (R81, R83). -/
def Instr.wf : Instr → Bool
  | .nop => true
  | .plookup note => noteFits note
  | .tquant => true
  | .oscSin note => noteFits note
  | .oscPul note => noteFits note
  | .oscSaw note => noteFits note
  | .oscSh3 note => noteFits note
  | .pcmq => true
  | .synthSin => true
  | .synthPul => true
  | .synthSaw => true
  | .synthSh3 => true
  | .clear => true

end Sys2Proof
end

