-- ==== Sys2Proof/Decode.lean ====
section
/-! DEFINITION. The decoder of the command word, total and rejecting by name, then the encoder and the
opcode table it is written from (spec/30_encoding.md R80 to R87). -/

namespace Sys2Proof

/-- Why a command word matches no row of the opcode map (spec/30_encoding.md R86). Every one of these
completes with the same error, IllegalCommand. -/
inductive IllegalWord where
  /-- `OP` is 0x0 (and the word is not the NOP) or 0x7 to 0xF. -/
  | reservedOpcode
  /-- `RSV` is not 0. -/
  | reservedBits
  /-- `SH` is not 0 for an opcode other than OSC and SYNTH. -/
  | shapeBits
  /-- `NOTE` is not 0 for an opcode other than PLOOKUP and OSC. -/
  | noteBits
deriving DecidableEq, Repr

/-- `OP`, bits [31:28] (R81). -/
def fieldOp (w : Word) : Nat := (w.extractLsb' 28 4).toNat

/-- `RSV`, bits [27:6] (R81). -/
def fieldRsv (w : Word) : Nat := (w.extractLsb' 6 22).toNat

/-- `SH`, bits [5:4] (R81). -/
def fieldSh (w : Word) : Nat := (w.extractLsb' 4 2).toNat

/-- `NOTE`, bits [3:0] (R81). -/
def fieldNote (w : Word) : Nat := (w.extractLsb' 0 4).toNat

/-- A command with no operand: its `SH` and `NOTE` bits must be 0 (R86). -/
def decodePlain (w : Word) (i : Instr) : Except IllegalWord Instr :=
  if fieldSh w ≠ 0 then .error .shapeBits
  else if fieldNote w ≠ 0 then .error .noteBits
  else .ok i

/-- The OSC row that `SH` selects (R82, R85). -/
def decodeOsc (sh note : Nat) : Instr :=
  match sh with
  | 0 => .oscSin note
  | 1 => .oscPul note
  | 2 => .oscSaw note
  | _ => .oscSh3 note

/-- The SYNTH row that `SH` selects (R82, R85). -/
def decodeSynth (sh : Nat) : Instr :=
  match sh with
  | 0 => .synthSin
  | 1 => .synthPul
  | 2 => .synthSaw
  | _ => .synthSh3

/-- The decoder of R91: the row of R85 that the word matches, or why it matches none (R86). -/
def decode (w : Word) : Except IllegalWord Instr :=
  if w = 0x00000000#32 then .ok .nop
  else if fieldRsv w ≠ 0 then .error .reservedBits
  else
    match fieldOp w with
    | 1 => if fieldSh w ≠ 0 then .error .shapeBits else .ok (.plookup (fieldNote w))
    | 2 => decodePlain w .tquant
    | 3 => .ok (decodeOsc (fieldSh w) (fieldNote w))
    | 4 => decodePlain w .pcmq
    | 5 => if fieldNote w ≠ 0 then .error .noteBits else .ok (decodeSynth (fieldSh w))
    | 6 => decodePlain w .clear
    | _ => .error .reservedOpcode

/-- The word of R81 with `RSV = 0`. -/
def commandWord (op : BitVec 4) (sh : BitVec 2) (note : Nat) : Word :=
  op ++ 0#22 ++ sh ++ BitVec.ofNat 4 note

/-- The word of an instruction, from the format of R81 and the opcode map of R85. -/
def encode : Instr → Word
  | .nop => commandWord 0#4 0#2 0
  | .plookup note => commandWord 1#4 0#2 note
  | .tquant => commandWord 2#4 0#2 0
  | .oscSin note => commandWord 3#4 0#2 note
  | .oscPul note => commandWord 3#4 1#2 note
  | .oscSaw note => commandWord 3#4 2#2 note
  | .oscSh3 note => commandWord 3#4 3#2 note
  | .pcmq => commandWord 4#4 0#2 0
  | .synthSin => commandWord 5#4 0#2 0
  | .synthPul => commandWord 5#4 1#2 0
  | .synthSaw => commandWord 5#4 2#2 0
  | .synthSh3 => commandWord 5#4 3#2 0
  | .clear => commandWord 6#4 0#2 0

/-- The match and the mask of an instruction's row, copied from the second table of R85. -/
def opcodeRow : Instr → Word × Word
  | .nop => (0x00000000#32, 0xFFFFFFFF#32)
  | .plookup _ => (0x10000000#32, 0xFFFFFFF0#32)
  | .tquant => (0x20000000#32, 0xFFFFFFFF#32)
  | .oscSin _ => (0x30000000#32, 0xFFFFFFF0#32)
  | .oscPul _ => (0x30000010#32, 0xFFFFFFF0#32)
  | .oscSaw _ => (0x30000020#32, 0xFFFFFFF0#32)
  | .oscSh3 _ => (0x30000030#32, 0xFFFFFFF0#32)
  | .pcmq => (0x40000000#32, 0xFFFFFFFF#32)
  | .synthSin => (0x50000000#32, 0xFFFFFFFF#32)
  | .synthPul => (0x50000010#32, 0xFFFFFFFF#32)
  | .synthSaw => (0x50000020#32, 0xFFFFFFFF#32)
  | .synthSh3 => (0x50000030#32, 0xFFFFFFFF#32)
  | .clear => (0x60000000#32, 0xFFFFFFFF#32)

/-- The instruction the decoder reads from an instruction whose bits are `w`, of which the table gives
`nbits`; the bits above are 0. A command is one 32-bit word on the bus (R80), never stored as bytes. -/
def decodeTableWord (nbits w : Nat) : Option Instr :=
  let bits := w % 2 ^ nbits
  if bits < 2 ^ 32 then
    match decode (BitVec.ofNat 32 bits) with
    | .ok i => some i
    | .error _ => none
  else none

end Sys2Proof
end

