-- ==== Sys2Proof/Config.lean ====
section
/-! DEFINITION. What an implementation fixes and what the spec leaves free. Nothing here has a body, so
no proof can see a value: a statement about one of these holds whatever it is. The functions of the
machine that use them (Machine/Params.lean, Machine/Float64.lean) hold them to the limits the spec sets. -/

namespace Sys2Proof.Config

/-- What the parameter `NSEQ_DEPTH` is made from (spec/00_scope.md R6; `nseqDepth` gives it its legal
range). DESIGN CHOICE, safe (log 3). -/
opaque nseqDepthSeed : Nat

/-- What the parameter `PCM_DEPTH` is made from (R6; `pcmDepth` gives it its legal range).
DESIGN CHOICE, safe (log 3). -/
opaque pcmDepthSeed : Nat

/-- The open sine function, before `sin64` holds it to R13(a) and (b) (spec/00_scope.md R13).
DESIGN CHOICE, safe (log 2). -/
opaque sineSeed : F64 → F64

/-- The sign and the 51 payload bits of the NaN that an operation makes from two operands: R10 says only
that the result is a NaN. The first argument numbers the operation. DESIGN CHOICE, safe (log 1). -/
opaque nanPayload : Nat → F64 → F64 → BitVec 52

/-- What the byte at an address of `NSEQ` or `PCMBUF` holds after the given number of resets, before
anything has written it ("any value", spec/70_reset_and_hazards.md R221). DESIGN CHOICE, safe (log 4). -/
opaque unwrittenByte : Nat → Nat → Byte

/-- What the n-th read of a result while busy returns ("any value", R232). DESIGN CHOICE, safe (log 7). -/
opaque busyReadWord : Nat → Word

end Sys2Proof.Config
end

