-- ==== Sys2Proof/Machine/Float64.lean ====
section
/-! DEFINITION. IEEE 754 binary64 arithmetic, roundTiesToEven, as spec/00_scope.md R10 and R11 name it.

Every finite binary64 value is a whole number of units of 2^-1074, so an operation is done exactly on
whole numbers and rounded once, at the end, by `roundMag`. The rules of IEEE 754 for infinities, signed
zeros and invalid operations are PRESUMED from that standard, which spec/93_implementation_defined.md
section 3 names as their meaning: unsafe if misread (log 13). -/

namespace Sys2Proof.Machine

/-! ### The fields of a value -/

/-- The sign bit. -/
def f64Neg (a : F64) : Bool := decide (0x8000000000000000 ≤ a.toNat)

/-- The 63 bits below the sign, as a number: the order of magnitudes is the order of these numbers. -/
def f64Mag (a : F64) : Nat := a.toNat % 0x8000000000000000

/-- The magnitude bits of infinity. -/
def infMag : Nat := 0x7FF0000000000000

/-- `isNaN` (R10). -/
def isNaN (a : F64) : Bool := decide (infMag < f64Mag a)

/-- The value is +inf or -inf. -/
def isInf (a : F64) : Bool := decide (f64Mag a = infMag)

/-- `isFinite` (R10). -/
def isFinite (a : F64) : Bool := decide (f64Mag a < infMag)

/-- The value is +0.0 or -0.0. -/
def isZero (a : F64) : Bool := decide (f64Mag a = 0)

/-- The bit pattern with the given sign and magnitude bits. -/
def packF64 (neg : Bool) (mag : Nat) : F64 :=
  BitVec.ofNat 64 (if neg then 0x8000000000000000 + mag else mag)

/-- How many units of 2^-1074 make 1.0. -/
def unitsPerOne : Nat := 2 ^ 1074

/-- The magnitude with the given bits, in units of 2^-1074: subnormal when the exponent field is 0. For
the bits of infinity this is a number above every finite magnitude, which is all `lt64` asks of it. -/
def unitsOfMag (mag : Nat) : Nat :=
  if mag / 2 ^ 52 = 0 then mag % 2 ^ 52
  else (2 ^ 52 + mag % 2 ^ 52) * 2 ^ (mag / 2 ^ 52 - 1)

/-- The magnitude of a value, in units of 2^-1074. -/
def f64Units (a : F64) : Nat := unitsOfMag (f64Mag a)

/-- The value, in units of 2^-1074. -/
def f64Int (a : F64) : Int := if f64Neg a then -(f64Units a : Int) else (f64Units a : Int)

/-! ### Rounding -/

/-- `num / den` rounded to the nearest whole number, ties to even (R11). -/
def roundNearestEven (num den : Nat) : Nat :=
  let q := num / den
  let r := num % den
  if 2 * r < den then q
  else if den < 2 * r then q + 1
  else q + q % 2

/-- The magnitude bits nearest to `num / den` units of 2^-1074, ties to even, overflow to infinity
(roundTiesToEven, R10). Below 2^53 units the spacing is one unit; above, 2^shift. A mantissa that
rounds up to 2^53 carries into the exponent field by itself. -/
def roundMag (num den : Nat) : Nat :=
  let shift := Nat.log2 (num / den) - 52
  min (shift * 2 ^ 52 + roundNearestEven num (den * 2 ^ shift)) infMag

/-! ### The operations of R10 -/

/-- A NaN result: quiet, its sign and payload free (R10; log 1). -/
def nanResult (op : Nat) (a b : F64) : F64 :=
  0x7FF8000000000000#64 ||| ((Config.nanPayload op a b).extractLsb' 51 1 ++ 0#12 ++ (Config.nanPayload op a b).extractLsb' 0 51)

/-- Sign change, for subtraction. -/
def neg64 (a : F64) : F64 := a ^^^ 0x8000000000000000#64

/-- The sum of two values, neither a NaN. An exact zero sum is +0.0 unless both operands are negative. -/
def addCore (op : Nat) (a b : F64) : F64 :=
  if isInf a then
    if isInf b && (f64Neg a != f64Neg b) then nanResult op a b else a
  else if isInf b then b
  else
    let z := f64Int a + f64Int b
    if z = 0 then packF64 (f64Neg a && f64Neg b) 0
    else packF64 (decide (z < 0)) (roundMag z.natAbs 1)

/-- `add64` (R10). -/
def add64 (a b : F64) : F64 :=
  if isNaN a || isNaN b then nanResult 0 a b else addCore 0 a b

/-- `sub64` (R10). -/
def sub64 (a b : F64) : F64 :=
  if isNaN a || isNaN b then nanResult 1 a b else addCore 1 a (neg64 b)

/-- `mul64` (R10). -/
def mul64 (a b : F64) : F64 :=
  if isNaN a || isNaN b then nanResult 2 a b
  else if isInf a || isInf b then
    if isZero a || isZero b then nanResult 2 a b
    else packF64 (f64Neg a != f64Neg b) infMag
  else packF64 (f64Neg a != f64Neg b) (roundMag (f64Units a * f64Units b) unitsPerOne)

/-- `div64` (R10). -/
def div64 (a b : F64) : F64 :=
  if isNaN a || isNaN b then nanResult 3 a b
  else if isInf a then
    if isInf b then nanResult 3 a b else packF64 (f64Neg a != f64Neg b) infMag
  else if isInf b then packF64 (f64Neg a != f64Neg b) 0
  else if isZero b then
    if isZero a then nanResult 3 a b else packF64 (f64Neg a != f64Neg b) infMag
  else packF64 (f64Neg a != f64Neg b) (roundMag (f64Units a * unitsPerOne) (f64Units b))

/-- `floor64`, roundToIntegralTowardNegative (R10); a zero result keeps the operand's sign. -/
def floor64 (a : F64) : F64 :=
  if isNaN a then nanResult 4 a a
  else if isInf a then a
  else packF64 (f64Neg a) (roundMag ((f64Int a / (unitsPerOne : Int)).natAbs * unitsPerOne) 1)

/-- `f64(n)`: the value of an integer, exact for `n < 2^32` (R10). -/
def f64OfNat (n : Nat) : F64 := packF64 false (roundMag (n * unitsPerOne) 1)

/-- `lt64`, compareQuietLess (R10). -/
def lt64 (a b : F64) : Bool := !isNaN a && !isNaN b && decide (f64Int a < f64Int b)

/-- `le64`, compareQuietLessEqual (R10). -/
def le64 (a b : F64) : Bool := !isNaN a && !isNaN b && decide (f64Int a ≤ f64Int b)

/-- `rte`: the nearest integer of a finite value, ties to even (R11). -/
def rte (a : F64) : Int :=
  let m := roundNearestEven (f64Units a) unitsPerOne
  if f64Neg a then -(m : Int) else (m : Int)

/-! ### The literals of the rules -/

/-- +0.0. -/
def zero64 : F64 := 0x0000000000000000#64

/-- 1.0. -/
def one64 : F64 := 0x3FF0000000000000#64

/-- -1.0. -/
def minusOne64 : F64 := 0xBFF0000000000000#64

/-- 2.0. -/
def two64 : F64 := 0x4000000000000000#64

/-- +inf. -/
def plusInf64 : F64 := 0x7FF0000000000000#64

/-- -inf. -/
def minusInf64 : F64 := 0xFFF0000000000000#64

/-- `BEAT_SECONDS`, 60.0 (R5). -/
def beatSeconds64 : F64 := 0x404E000000000000#64

/-- `SAMPLE_RATE`, 44100.0 (R5). -/
def sampleRate64 : F64 := 0x40E5888000000000#64

/-- `PCM_MAX`, 32767.0 (R5). -/
def pcmMax64 : F64 := 0x40DFFFC000000000#64

/-- `TWO_PI`, the binary64 value nearest to 2π (R12). -/
def twoPi64 : F64 := 0x401921FB54442D18#64

end Sys2Proof.Machine
end

