-- ==== Sys2Proof/Machine/Params.lean ====
section
/-! DEFINITION. The three open parameters of the block (spec/00_scope.md R6), each made from an opaque
constant of Config and held to the limits the spec sets, so that it can be any legal value. -/

namespace Sys2Proof.Machine

/-- `NSEQ_DEPTH`: any number from 1 to 4096 (R6; log 3). -/
def nseqDepth : Nat := Config.nseqDepthSeed % 4096 + 1

/-- `PCM_DEPTH`: any number from 1 to 2^23 (R6; log 3). -/
def pcmDepth : Nat := Config.pcmDepthSeed % 8388608 + 1

/-- A finite value in [-1.0, 1.0]. -/
def inUnitRange (a : F64) : Bool := isFinite a && le64 minusOne64 a && le64 a one64

/-- `SIN64` (R13): any function that meets (a) and (b). The open function where it meets them, +0.0
where it does not: every function that meets R13 is this one for some value of the open function.
Of an operand that is not finite R13 says nothing, and the result is free (log 2). -/
def sin64 (a : F64) : F64 :=
  if a = zero64 then zero64
  else if isFinite a && !inUnitRange (Config.sineSeed a) then zero64
  else Config.sineSeed a

end Sys2Proof.Machine
end

