-- ==== Sys2Proof/Machine/State.lean ====
section
/-! DEFINITION. The state of the block (spec/10_state.md R20), plain data, and what it is after reset
(spec/70_reset_and_hazards.md R220). -/

namespace Sys2Proof.Machine

/-- The fields of `STATUS` that have storage (R25). The reserved bits have none and read 0 (R41). -/
structure Status where
  /-- A command is in flight (R26). -/
  busy : Bool
  /-- A command has completed (R27). -/
  done : Bool
  /-- A host write was ignored because the block was busy; sticky (R28). -/
  wbusy : Bool
  /-- `NSAMP` and `DUR` hold the time axis of the present `BPM` (R29). -/
  axv : Bool
  /-- The result code of the last completed command (R30). -/
  ecode : BitVec 4
deriving DecidableEq, Repr

/-- Which engine step of a SYNTH comes next: the one of R160, or one of R161. No rule names this field;
R91 and R161 imply it. DEDUCED, safe (log 9). -/
inductive Phase where
  | start
  | generate
deriving DecidableEq, Repr

/-- The engine's hidden state `e` (R39). -/
structure Engine where
  /-- `e.cw`, the command word in flight. -/
  cw : Word
  /-- `e.np`, the note pointer (R38). -/
  np : Nat
  /-- `e.kp`, the sample index within the note. -/
  kp : Nat
  /-- `e.N`, the samples per note of the SYNTH in flight. -/
  n : Nat
  /-- The model's own: see `Phase`. -/
  phase : Phase
deriving DecidableEq, Repr

/-- An event of the total order of spec/20_memory.md R61 that comes from outside the block. -/
inductive BusEvent where
  /-- A host read of `width` bytes. The contract is width 4 and an address that is a multiple of 4 (R52). -/
  | read (width : Nat) (addr : Word)
  /-- A host write of `width` bytes; the same contract. -/
  | write (width : Nat) (addr data : Word)
  /-- The platform applies reset (R220). -/
  | reset
  /-- An access by a second bus master, outside the contract (R63). -/
  | otherMaster
deriving DecidableEq, Repr

/-- Why the machine stops. Each is an engine access to something that does not exist. R59, R160 and R161
say that the engine makes no such access, so each is reachable only from a state no run reaches. -/
inductive Fault where
  /-- A SYNTH sample step read note `j`, at or beyond `NSEQ_DEPTH`. Raised by `synthStep`. Safe (log 11). -/
  | noteIndex (j : Nat)
  /-- A SYNTH sample step indexed `PROM` with a code above 12. Raised by `synthStep`. Safe (log 11). -/
  | promIndex (code : Nat)
  /-- A SYNTH sample step wrote sample `n`, at or beyond `PCM_DEPTH`. Raised by `synthStep`. Safe (log 11). -/
  | pcmIndex (n : Nat)
deriving DecidableEq, Repr

/-- Why the model gives an input no meaning. -/
inductive Refusal where
  /-- An instruction with no meaning yet. Raised by a refused arm of `exec`; safe. No arm raises it. -/
  | notModelled (mnemonic : String)
  /-- A host access that is not 32 bits wide (R52: "A model refuses such an access"). Raised by `busEvent`. Safe (log 12). -/
  | accessWidth
  /-- A host access at an address that is not a multiple of 4 (R52). Raised by `busEvent`. Safe (log 12). -/
  | misaligned
  /-- An access by a second bus master (R63; spec/93_implementation_defined.md: "refuse"). Raised by `busEvent`. Safe (log 12). -/
  | secondMaster
deriving DecidableEq, Repr

/-- The errors that a command reports (spec/60_exceptions.md R190). They are not faults of the model:
raising one gives a next state (R192). -/
inductive BlockError where
  | invalidNoteSymbol
  | invalidTempo
  | invalidWaveformKind
  | invalidShapeParameter
  | illegalCommand
  | capacityExceeded
  | axisNotReady
  | indexRange
deriving DecidableEq, Repr

/-- The three waveform shapes (spec/30_encoding.md R82). `SH = 3` selects none of them. -/
inductive Wave where
  | sine
  | pulse
  | saw
deriving DecidableEq, Repr

/-- The bytes of `NSEQ` and `PCMBUF` that something has written since reset, by address, addresses
strictly rising. An unlisted byte has no value of its own: it holds "any value" (R221; log 4). -/
abbrev Memory := List Host.Cell

/-- The complete state of the block (R20), and below the line the model's own fields. -/
structure State where
  /-- `STATUS` (R25). -/
  status : Status
  /-- `ERRINFO` (R31). -/
  errinfo : Word
  /-- `NCOUNT`, bits [12:0]; the bits above read 0 (R32). -/
  ncount : BitVec 13
  /-- `BPM` (R33). -/
  bpm : F64
  /-- `DUTY` (R33). -/
  duty : F64
  /-- `WIDTH` (R33). -/
  width : F64
  /-- `KIDX` (R34). -/
  kidx : Word
  /-- `NSAMP` (R35). -/
  nsamp : Word
  /-- `DUR` (R35). -/
  dur : F64
  /-- `FREQ` (R36). -/
  freq : F64
  /-- `SAMPLE` (R36). -/
  sample : F64
  /-- `PCM` (R36). -/
  pcm : Word
  /-- `OUTLEN` (R37). -/
  outlen : Word
  /-- `NSEQ_CAP`, hard-wired to the parameter `NSEQ_DEPTH` (R37, R44; log 3). -/
  nseqCap : Word
  /-- `PCM_CAP`, hard-wired to the parameter `PCM_DEPTH` (R37, R44; log 3). -/
  pcmCap : Word
  /-- `NSEQ` and `PCMBUF`, in the one address space of R50 (R55, R56). -/
  mem : Memory
  /-- The engine's hidden state `e` (R39). -/
  eng : Engine
  /-- Model's own: what the outside world will do, first event first (R4; log 5). -/
  pending : List BusEvent
  /-- Model's own: how many of those events come before each engine step (R91; log 5). -/
  gaps : List Nat
  /-- Model's own: the values host reads have returned, newest first (R4; log 5). -/
  readLog : List Word
  /-- Model's own: how many free values busy reads have taken (R232; log 7). -/
  freeCount : Nat
  /-- Model's own: how many resets there have been (R221; log 4). -/
  epoch : Nat
deriving DecidableEq, Repr

/-- The engine at reset. R220(b) gives these no value. DESIGN CHOICE, unsafe in form, without effect
while `BUSY = 0` (R39; log 8). -/
def Engine.reset : Engine := { cw := 0#32, np := 0, kp := 0, n := 0, phase := .start }

/-- The block right after reset (R220 and the "reset" column of R22). -/
def State.reset : State where
  status := { busy := false, done := false, wbusy := false, axv := false, ecode := 0#4 }
  errinfo := 0x00000000#32
  ncount := 0#13
  bpm := 0x405E000000000000#64
  duty := 0x3FE0000000000000#64
  width := 0x3FE0000000000000#64
  kidx := 0x00000000#32
  nsamp := 0x00000000#32
  dur := 0x0000000000000000#64
  freq := 0x0000000000000000#64
  sample := 0x0000000000000000#64
  pcm := 0x00000000#32
  outlen := 0x00000000#32
  nseqCap := BitVec.ofNat 32 nseqDepth
  pcmCap := BitVec.ofNat 32 pcmDepth
  mem := []
  eng := Engine.reset
  pending := []
  gaps := []
  readLog := []
  freeCount := 0
  epoch := 0

end Sys2Proof.Machine
end

