-- ==== Sys2Proof/Machine/Flags.lean ====
section
/-! DEFINITION. `STATUS` as a word, the error codes and every update of the status flags
(spec/10_state.md R25 to R30 and R45, spec/60_exceptions.md R190). -/

namespace Sys2Proof.Machine

/-- One flag as one bit. -/
def flagBit (b : Bool) : BitVec 1 := BitVec.ofBool b

/-- `STATUS` as the host reads it (R25): ECODE [11:8], AXV [3], WBUSY [2], DONE [1], BUSY [0], the rest 0. -/
def Status.word (st : Status) : Word :=
  0#20 ++ st.ecode ++ 0#4 ++ flagBit st.axv ++ flagBit st.wbusy ++ flagBit st.done ++ flagBit st.busy

/-- `code(E)` (R190). -/
def BlockError.code : BlockError → BitVec 4
  | .invalidNoteSymbol => 1#4
  | .invalidTempo => 2#4
  | .invalidWaveformKind => 3#4
  | .invalidShapeParameter => 4#4
  | .illegalCommand => 5#4
  | .capacityExceeded => 6#4
  | .axisNotReady => 7#4
  | .indexRange => 8#4

/-- Accepting a command other than NOP: BUSY 1, DONE 0, ECODE 0 (spec/30_encoding.md R90). -/
def Status.accepted (st : Status) : Status :=
  { st with busy := true, done := false, ecode := 0#4 }

/-- Completing a command: BUSY 0, and the given DONE and ECODE (R92). -/
def Status.completed (st : Status) (done : Bool) (code : BitVec 4) : Status :=
  { st with ecode := code, done := done, busy := false }

end Sys2Proof.Machine
end

