-- ==== Sys2Proof/Machine/Operands.lean ====
section
/-! DEFINITION. The operand forms: the note code, the shape's parameter, the halves of a binary64
register, the 16-bit sample, and the registers of the register map by name. -/

namespace Sys2Proof.Machine

/-- The low half of a binary64 register, bits [31:0] (R24). -/
def lowHalf (v : F64) : Word := v.extractLsb' 0 32

/-- The high half of a binary64 register, bits [63:32] (R24). -/
def highHalf (v : F64) : Word := v.extractLsb' 32 32

/-- A write to the `_LO` register changes only that half (R24). -/
def withLowHalf (v : F64) (w : Word) : F64 := highHalf v ++ w

/-- A write to the `_HI` register changes only that half (R24). -/
def withHighHalf (v : F64) (w : Word) : F64 := w ++ lowHalf v

/-- `s16(v)`: the 16-bit two's-complement pattern of an integer (spec/00_scope.md R8). -/
def s16 (v : Int) : BitVec 16 := BitVec.ofInt 16 v

/-- The `info` of InvalidNoteSymbol: the code in [23:16], the note's index in [12:0]
(spec/60_exceptions.md R190, R31). -/
def noteInfo (code index : Nat) : Word := (BitVec.ofNat 32 (code % 256) <<< 16) ||| BitVec.ofNat 32 index

/-- `shape_param_ok` (spec/43_oscillator.md R134): the parameter of the chosen shape is finite. -/
def shapeParamOk (w : Wave) (s : State) : Bool :=
  match w with
  | .sine => true
  | .pulse => isFinite s.duty
  | .saw => isFinite s.width

/-- The registers of the register map (R22). -/
inductive Reg where
  | cmd | status | errinfo | ncount
  | bpmLo | bpmHi | dutyLo | dutyHi | widthLo | widthHi
  | kidx | nsamp | durLo | durHi | freqLo | freqHi | sampleLo | sampleHi
  | pcm | outlen | nseqCap | pcmCap
deriving DecidableEq, Repr

/-- The register at a byte offset of the register window (R22); none at a reserved offset (R41). -/
def regAt (offset : Nat) : Option Reg :=
  match offset with
  | 0x000 => some .cmd
  | 0x004 => some .status
  | 0x008 => some .errinfo
  | 0x00C => some .ncount
  | 0x010 => some .bpmLo
  | 0x014 => some .bpmHi
  | 0x018 => some .dutyLo
  | 0x01C => some .dutyHi
  | 0x020 => some .widthLo
  | 0x024 => some .widthHi
  | 0x028 => some .kidx
  | 0x02C => some .nsamp
  | 0x030 => some .durLo
  | 0x034 => some .durHi
  | 0x038 => some .freqLo
  | 0x03C => some .freqHi
  | 0x040 => some .sampleLo
  | 0x044 => some .sampleHi
  | 0x048 => some .pcm
  | 0x04C => some .outlen
  | 0x050 => some .nseqCap
  | 0x054 => some .pcmCap
  | _ => none

/-- The registers a host write can reach: `CMD` (W) and the RW registers of R22. -/
def Reg.writable : Reg → Bool
  | .cmd | .ncount | .bpmLo | .bpmHi | .dutyLo | .dutyHi | .widthLo | .widthHi | .kidx | .sampleLo | .sampleHi => true
  | .status | .errinfo | .nsamp | .durLo | .durHi | .freqLo | .freqHi | .pcm | .outlen | .nseqCap | .pcmCap => false

/-- The registers whose read while busy gives any value (spec/70_reset_and_hazards.md R232). `STATUS` is
not among them: only its `AXV` bit is open. -/
def Reg.openWhileBusy : Reg → Bool
  | .errinfo | .nsamp | .durLo | .durHi | .freqLo | .freqHi | .sampleLo | .sampleHi | .pcm | .outlen => true
  | .cmd | .status | .ncount | .bpmLo | .bpmHi | .dutyLo | .dutyHi | .widthLo | .widthHi | .kidx | .nseqCap | .pcmCap => false

/-- The present value of a register, as a 32-bit read gives it (R22 to R37). `CMD` reads 0 (R23). -/
def readReg (r : Reg) (s : State) : Word :=
  match r with
  | .cmd => 0x00000000#32
  | .status => s.status.word
  | .errinfo => s.errinfo
  | .ncount => s.ncount.setWidth 32
  | .bpmLo => lowHalf s.bpm
  | .bpmHi => highHalf s.bpm
  | .dutyLo => lowHalf s.duty
  | .dutyHi => highHalf s.duty
  | .widthLo => lowHalf s.width
  | .widthHi => highHalf s.width
  | .kidx => s.kidx
  | .nsamp => s.nsamp
  | .durLo => lowHalf s.dur
  | .durHi => highHalf s.dur
  | .freqLo => lowHalf s.freq
  | .freqHi => highHalf s.freq
  | .sampleLo => lowHalf s.sample
  | .sampleHi => highHalf s.sample
  | .pcm => s.pcm
  | .outlen => s.outlen
  | .nseqCap => s.nseqCap
  | .pcmCap => s.pcmCap

/-- What an accepted host write to a register stores. A write to either half of `BPM` also clears `AXV`
(spec/42_time_quantizer.md R113); `NCOUNT` keeps bits [12:0] (R32); a write to a read-only register is
ignored (R42). `CMD` stores nothing (R23): what a write to it does is `issueCommand`. -/
def writeReg (r : Reg) (data : Word) (s : State) : State :=
  match r with
  | .ncount => { s with ncount := data.setWidth 13 }
  | .bpmLo => { s with bpm := withLowHalf s.bpm data, status := { s.status with axv := false } }
  | .bpmHi => { s with bpm := withHighHalf s.bpm data, status := { s.status with axv := false } }
  | .dutyLo => { s with duty := withLowHalf s.duty data }
  | .dutyHi => { s with duty := withHighHalf s.duty data }
  | .widthLo => { s with width := withLowHalf s.width data }
  | .widthHi => { s with width := withHighHalf s.width data }
  | .kidx => { s with kidx := data }
  | .sampleLo => { s with sample := withLowHalf s.sample data }
  | .sampleHi => { s with sample := withHighHalf s.sample data }
  | .cmd | .status | .errinfo | .nsamp | .durLo | .durHi | .freqLo | .freqHi | .pcm | .outlen | .nseqCap | .pcmCap => s

end Sys2Proof.Machine
end

