-- ==== Sys2Proof/Machine/Ops.lean ====
section
/-! DEFINITION. The named operations over memory and state: bytes and samples, the two depths,
accepting a command, completing it, and raising an error (the block's one kind of exception). -/

namespace Sys2Proof.Machine

/-! ### Memory: a list of written bytes -/

/-- What an unlisted address holds: no value of its own (R221; log 4). -/
def Memory.unlisted : Option Byte := none

/-- The written byte at an address, if it is listed. -/
def Memory.load? : Memory → Nat → Option Byte
  | [], _ => Memory.unlisted
  | (x, v) :: rest, a => if a = x then some v else Memory.load? rest a

/-- Write one byte, keeping the addresses strictly rising. -/
def Memory.store : Memory → Nat → Byte → Memory
  | [], a, b => [(a, b)]
  | (x, v) :: rest, a, b =>
    if a < x then (a, b) :: (x, v) :: rest
    else if a = x then (a, b) :: rest
    else (x, v) :: Memory.store rest a b

/-- Every address is above `bound`, the addresses strictly rise, and no entry is what an unlisted address
holds. -/
def Memory.risesAbove : Nat → Memory → Bool
  | _, [] => true
  | bound, (x, v) :: rest => decide (bound < x) && (some v != Memory.unlisted) && Memory.risesAbove x rest

/-- The canonical form of memory. Address 0 is a register, so no memory byte has it. -/
def Memory.wf (m : Memory) : Bool := Memory.risesAbove 0 m

/-! ### The two memories in the address space -/

/-- `NSEQ_BASE` (R50). -/
def nseqBase : Nat := 0x00001000

/-- `PCM_BASE` (R50). -/
def pcmBase : Nat := 0x01000000

/-- `NSEQ_DEPTH`, as `NSEQ_CAP` holds it (R37). -/
def State.nseqDepth (s : State) : Nat := s.nseqCap.toNat

/-- `PCM_DEPTH`, as `PCM_CAP` holds it (R37). -/
def State.pcmDepth (s : State) : Nat := s.pcmCap.toNat

/-- The address is that of a byte of `NSEQ` (R55). -/
def State.inNseq (s : State) (a : Nat) : Bool := decide (nseqBase ≤ a ∧ a < nseqBase + s.nseqDepth)

/-- The address is that of a byte of `PCMBUF` (R56). -/
def State.inPcm (s : State) (a : Nat) : Bool := decide (pcmBase ≤ a ∧ a < pcmBase + 2 * s.pcmDepth)

/-- The byte at a memory address: what was last written, else "any value", the same at every read until
the next reset (R221; log 4). -/
def State.readByte (s : State) (a : Nat) : Byte :=
  match Memory.load? s.mem a with
  | some b => b
  | none => Config.unwrittenByte s.epoch a

/-- Store one byte. -/
def State.writeByte (s : State) (a : Nat) (b : Byte) : State := { s with mem := Memory.store s.mem a b }

/-- `MemRead(NSEQ_BASE + j, 1)`: the code of note `j` (R55, R59). -/
def State.noteCode (s : State) (j : Nat) : Nat := (s.readByte (nseqBase + j)).toNat

/-- The address of PCM sample `n` (R57(a)). -/
def pcmAddr (n : Nat) : Nat := pcmBase + 2 * n

/-- `MemWrite(PCM_BASE + 2n, 2, v)`: PCM sample `n`, little-endian (R57(a), R59). -/
def State.writePcm (s : State) (n : Nat) (v : BitVec 16) : State :=
  (s.writeByte (pcmAddr n) (v.extractLsb' 0 8)).writeByte (pcmAddr n + 1) (v.extractLsb' 8 8)

/-- PCM sample `n` as `PCMBUF` holds it (R57(a)). -/
def State.pcmSample (s : State) (n : Nat) : BitVec 16 :=
  s.readByte (pcmAddr n + 1) ++ s.readByte (pcmAddr n)

/-! ### Accepting and completing a command, raising an error -/

/-- A host write is ignored because the block is busy (R28, R230). -/
def State.ignoreWrite (s : State) : State := { s with status := { s.status with wbusy := true } }

/-- Accepting a command word other than NOP (spec/30_encoding.md R90). The engine's next step is the
command's first. -/
def State.accept (s : State) (w : Word) : State :=
  { s with status := s.status.accepted, eng := { s.eng with cw := w, phase := .start } }

/-- The completion of a command that reached its end (R92), CLEAR apart. -/
def State.complete (s : State) : State :=
  { s with status := s.status.completed true 0#4, errinfo := 0x00000000#32 }

/-- The completion of CLEAR, which leaves DONE 0 (R92, R181). -/
def State.completeClear (s : State) : State :=
  { s with status := s.status.completed false 0#4, errinfo := 0x00000000#32 }

/-- `raise E(info)` (spec/60_exceptions.md R192): the writes made before it stay, and the completion of
R92 runs with `code(E)` and `info`. No program counter, mode or return address is saved, no vector is
taken (R192(d), R196), and there is no return (R197): afterwards the engine is idle. -/
def State.raise (s : State) (e : BlockError) (info : Word) : State :=
  { s with status := s.status.completed true e.code, errinfo := info }

end Sys2Proof.Machine
end

