-- ==== Sys2Proof/Machine/Control.lean ====
section
/-! DEFINITION. NOP and CLEAR (spec/46_control.md). -/

namespace Sys2Proof.Machine

/-- NOP (R180), at the host's write: while busy it is ignored like every write, otherwise nothing. -/
def execNop (s : State) : Host.Outcome State Fault Refusal :=
  if s.status.busy then .next s.ignoreWrite else .next s

/-- CLEAR (R181). -/
def execClear (s : State) : Host.Outcome State Fault Refusal :=
  .next ({ s with status := { s.status with wbusy := false } } : State).completeClear

end Sys2Proof.Machine
end

