-- ==== Sys2Proof/Machine/PitchRom.lean ====
section
/-! DEFINITION. The pitch ROM and PLOOKUP (spec/41_pitch_rom.md). -/

namespace Sys2Proof.Machine

/-- `PROM`, indexed by note code: the hex column of R100. Constant (R102). -/
def promTable : List F64 :=
  [ 0x0000000000000000#64, 0x40705A0250C2B956#64, 0x407152EC0E758E6F#64, 0x40725AA2E3AF0B21#64,
    0x4073720820155764#64, 0x40749A0A791E127B#64, 0x4075D3A6D600CABC#64, 0x40771FE927CA0DE9#64,
    0x40787FED4E47ADFF#64, 0x4079F4E00A91D08E#64, 0x407B800000000000#64, 0x407D229EC465C8A2#64,
    0x407EDE22007F791A#64 ]

/-- `frequency_of(c)` (R101): the ROM entry, or none for a code above 12, where R101 raises
InvalidNoteSymbol. -/
def frequencyOf (c : Nat) : Option F64 := if 12 < c then none else promTable[c]?

/-- PLOOKUP (R103). -/
def execPlookup (note : Nat) (s : State) : Host.Outcome State Fault Refusal :=
  match frequencyOf note with
  | none => .next (s.raise .invalidNoteSymbol (noteInfo note 0))
  | some f => .next ({ s with freq := f } : State).complete

end Sys2Proof.Machine
end

