-- ==== Sys2Proof/Machine/TimeQuantizer.lean ====
section
/-! DEFINITION. The time quantizer and TQUANT (spec/42_time_quantizer.md). -/

namespace Sys2Proof.Machine

/-- `axis(b)` (R110): the note duration and the samples per note, or none for INVALID. -/
def axis (b : F64) : Option (F64 × Nat) :=
  if isNaN b || le64 b zero64 then none
  else
    let d := div64 beatSeconds64 b
    let y := mul64 sampleRate64 d
    if !isFinite y then none
    else
      let n := rte y
      if n < 1 ∨ 4294967295 < n then none
      else some (d, n.toNat)

/-- `t(k, d, n)` (R111): the time of sample `k`. -/
def timeValue (k : Nat) (d : F64) (n : Nat) : F64 :=
  if k = 0 then zero64
  else if k + 1 = n then d
  else mul64 (f64OfNat k) (div64 d (f64OfNat (n - 1)))

/-- A valid axis goes to `DUR` and `NSAMP`, and `AXV` is set (R112, spec/45_sequencer.md R160). -/
def State.setAxis (s : State) (d : F64) (n : Nat) : State :=
  { s with dur := d, nsamp := BitVec.ofNat 32 n, status := { s.status with axv := true } }

/-- InvalidTempo: `AXV` is cleared and the error raised (R112, R160). -/
def State.raiseTempo (s : State) : State :=
  ({ s with status := { s.status with axv := false } } : State).raise .invalidTempo 0x00000000#32

/-- TQUANT (R112). -/
def execTquant (s : State) : Host.Outcome State Fault Refusal :=
  match axis s.bpm with
  | none => .next s.raiseTempo
  | some (d, n) => .next (s.setAxis d n).complete

end Sys2Proof.Machine
end

