-- ==== Sys2Proof/Machine/Oscillator.lean ====
section
/-! DEFINITION. The oscillator and the OSC commands (spec/43_oscillator.md). -/

namespace Sys2Proof.Machine

/-- `sine_s` (R131): the products are taken left to right. -/
def sineSample (f tk : F64) : F64 := sin64 (mul64 (mul64 twoPi64 f) tk)

/-- `frac(f · t)`, the phase within the period (R132, R133). -/
def phaseOf (f tk : F64) : F64 :=
  let x := mul64 f tk
  sub64 x (floor64 x)

/-- `pulse_s` (R132). -/
def pulseSample (f tk u : F64) : F64 := if lt64 (phaseOf f tk) u then one64 else minusOne64

/-- `saw_s` (R133): the rising ramp below `w`, the falling ramp from `w` on. -/
def sawSample (f tk w : F64) : F64 :=
  let p := phaseOf f tk
  if lt64 p w then sub64 (mul64 two64 (div64 p w)) one64
  else sub64 one64 (mul64 two64 (div64 (sub64 p w) (sub64 one64 w)))

/-- `osc_sample` (R130) for note code `c`, whose ROM entry is `f`, with the present `DUTY` and `WIDTH`. A
rest is +0.0 for every shape. -/
def oscSample (w : Wave) (c : Nat) (f tk : F64) (s : State) : F64 :=
  if c = 0 then zero64
  else
    match w with
    | .sine => sineSample f tk
    | .pulse => pulseSample f tk s.duty
    | .saw => sawSample f tk s.width

/-- `osc_cmd(sh)` (R135); `none` is `SH = 3`. The checks stand in the order of R135. -/
def oscCommand (sh : Option Wave) (note : Nat) (s : State) : State :=
  match frequencyOf note with
  | none => s.raise .invalidNoteSymbol (noteInfo note 0)
  | some f =>
    if s.status.axv = false then s.raise .axisNotReady 0x00000000#32
    else if s.nsamp.toNat ≤ s.kidx.toNat then s.raise .indexRange 0x00000000#32
    else
      match sh with
      | none => s.raise .invalidWaveformKind 0x00000000#32
      | some w =>
        if shapeParamOk w s = false then s.raise .invalidShapeParameter 0x00000000#32
        else
          ({ s with
              freq := f
              sample := oscSample w note f (timeValue s.kidx.toNat s.dur s.nsamp.toNat) s } : State).complete

/-- OSC.SIN (R135). -/
def execOscSin (note : Nat) (s : State) : Host.Outcome State Fault Refusal := .next (oscCommand (some .sine) note s)

/-- OSC.PUL (R136). -/
def execOscPul (note : Nat) (s : State) : Host.Outcome State Fault Refusal := .next (oscCommand (some .pulse) note s)

/-- OSC.SAW (R137). -/
def execOscSaw (note : Nat) (s : State) : Host.Outcome State Fault Refusal := .next (oscCommand (some .saw) note s)

/-- OSC.SH3 (R138): it never reaches a sample. -/
def execOscSh3 (note : Nat) (s : State) : Host.Outcome State Fault Refusal := .next (oscCommand none note s)

end Sys2Proof.Machine
end

