-- ==== Sys2Proof/Machine/PcmQuantizer.lean ====
section
/-! DEFINITION. The PCM quantizer and PCMQ (spec/44_pcm_quantizer.md). -/

namespace Sys2Proof.Machine

/-- `clamp(v, lo, hi)` (spec/00_scope.md R8). -/
def clampInt (v lo hi : Int) : Int := min (max v lo) hi

/-- `quant(s)` (R150). -/
def quant (a : F64) : Int :=
  if isNaN a then 0
  else
    let y := mul64 a pcmMax64
    if y = plusInf64 then 32767
    else if y = minusInf64 then -32768
    else clampInt (rte y) (-32768) 32767

/-- PCMQ (R151): `PCM` bits [15:0] are `s16(p)`, bits [31:16] are 0. -/
def execPcmq (s : State) : Host.Outcome State Fault Refusal :=
  .next ({ s with pcm := (s16 (quant s.sample)).setWidth 32 } : State).complete

end Sys2Proof.Machine
end

