-- ==== Sys2Proof/Machine/Sequencer.lean ====
section
/-! DEFINITION. The sequencer and the SYNTH commands (spec/45_sequencer.md). One call of a meaning is one
engine step: the first (R160) or one sample (R161). -/

namespace Sys2Proof.Machine

/-- The lowest index below `nc` whose code is not a note (R160: "ascending j; first failure wins"). -/
def firstBadNote (s : State) (nc : Nat) : Option Nat :=
  (List.range nc).find? (fun j => decide (12 < s.noteCode j))

/-- `finish()` (R162) and the completion of spec/30_encoding.md R92: the command's last register write and
the clearing of `BUSY`, together (R61(d), R92). -/
def State.finishSynth (s : State) : State :=
  ({ s with outlen := BitVec.ofNat 32 (s.ncount.toNat * s.eng.n) } : State).complete

/-- The engine set up for the first sample (the last lines of R160). -/
def State.beginSamples (s : State) (n : Nat) : State :=
  { s with eng := { s.eng with n := n, np := 0, kp := 0, phase := .generate } }

/-- `synth_start(sh)` (R160); `none` is `SH = 3`. The checks stand in the order of R160. Its register writes
are made in this step, as R91 has the engine run the pseudocode and R161 and R162 use them; log 14 rules on
that beside spec/20_memory.md R61(d). -/
def synthStart (sh : Option Wave) (s0 : State) : State :=
  let s : State := { s0 with outlen := 0x00000000#32 }
  let nc := s.ncount.toNat
  if s.nseqDepth < nc then s.raise .capacityExceeded 0x00000000#32
  else
    match firstBadNote s nc with
    | some j => s.raise .invalidNoteSymbol (noteInfo (s.noteCode j) j)
    | none =>
      match axis s.bpm with
      | none => s.raiseTempo
      | some (d, n) =>
        let s := s.setAxis d n
        match sh with
        | none => s.raise .invalidWaveformKind 0x00000000#32
        | some w =>
          if shapeParamOk w s = false then s.raise .invalidShapeParameter 0x00000000#32
          else if s.pcmDepth < nc * n then s.raise .capacityExceeded 0x00000000#32
          else if nc = 0 then (s.beginSamples n).finishSynth
          else s.beginSamples n

/-- The pointers after a sample (R161): the next sample of the note, or the next note, or the end. -/
def State.advanceSample (s : State) : State :=
  if s.eng.kp + 1 < s.eng.n then { s with eng := { s.eng with kp := s.eng.kp + 1 } }
  else
    let t : State := { s with eng := { s.eng with kp := 0, np := s.eng.np + 1 } }
    if s.eng.np + 1 = s.ncount.toNat then t.finishSynth else t

/-- The sample that `synth_step` makes for a note code whose ROM entry is `f` (R161). -/
def synthValue (w : Wave) (c : Nat) (f : F64) (k : Nat) (s : State) : BitVec 16 :=
  s16 (quant (oscSample w c f (timeValue k s.dur s.eng.n) s))

/-- `synth_step(sh)` (R161). The three faults are the accesses that R59 and R160 say never happen (log 11). -/
def synthStep (w : Wave) (s : State) : Host.Outcome State Fault Refusal :=
  let j := s.eng.np
  let k := s.eng.kp
  if s.nseqDepth ≤ j then .fault (.noteIndex j)
  else
    let c := s.noteCode j
    match frequencyOf c with
    | none => .fault (.promIndex c)
    | some f =>
      let idx := j * s.eng.n + k
      if s.pcmDepth ≤ idx then .fault (.pcmIndex idx)
      else .next (s.writePcm idx (synthValue w c f k s)).advanceSample

/-- One engine step of a SYNTH of a recognised shape (R163). -/
def synthCommand (w : Wave) (s : State) : Host.Outcome State Fault Refusal :=
  match s.eng.phase with
  | .start => .next (synthStart (some w) s)
  | .generate => synthStep w s

/-- SYNTH.SIN (R163). -/
def execSynthSin (s : State) : Host.Outcome State Fault Refusal := synthCommand .sine s

/-- SYNTH.PUL (R164). -/
def execSynthPul (s : State) : Host.Outcome State Fault Refusal := synthCommand .pulse s

/-- SYNTH.SAW (R165). -/
def execSynthSaw (s : State) : Host.Outcome State Fault Refusal := synthCommand .saw s

/-- SYNTH.SH3 (R166): `synth_start(3)`, which always raises before any sample step. -/
def execSynthSh3 (s : State) : Host.Outcome State Fault Refusal := .next (synthStart none s)

end Sys2Proof.Machine
end

