-- ==== Sys2Proof/Machine/Dispatch.lean ====
section
/-! DEFINITION. One arm per command: each calls its meaning. -/

namespace Sys2Proof.Machine

def exec (i : Instr) (s : State) : Host.Outcome State Fault Refusal :=
  match i with
  | .nop => Sys2Proof.Machine.execNop s
  | .plookup note => Sys2Proof.Machine.execPlookup note s
  | .tquant => Sys2Proof.Machine.execTquant s
  | .oscSin note => Sys2Proof.Machine.execOscSin note s
  | .oscPul note => Sys2Proof.Machine.execOscPul note s
  | .oscSaw note => Sys2Proof.Machine.execOscSaw note s
  | .oscSh3 note => Sys2Proof.Machine.execOscSh3 note s
  | .pcmq => Sys2Proof.Machine.execPcmq s
  | .synthSin => Sys2Proof.Machine.execSynthSin s
  | .synthPul => Sys2Proof.Machine.execSynthPul s
  | .synthSaw => Sys2Proof.Machine.execSynthSaw s
  | .synthSh3 => Sys2Proof.Machine.execSynthSh3 s
  | .clear => Sys2Proof.Machine.execClear s

end Sys2Proof.Machine
end

