-- ==== Sys2Proof/Machine/Bus.lean ====
section
/-! DEFINITION. The host interface: the address map, reads and writes, command issue, reset, the engine's
fetch of its command, and which event of R61 comes next (spec/20_memory.md, spec/30_encoding.md section 3,
spec/70_reset_and_hazards.md). -/

namespace Sys2Proof.Machine

/-- Where an aligned word address falls (R50, R51). -/
inductive Location where
  /-- A register of R22. -/
  | reg (r : Reg)
  /-- A word with at least one byte of `NSEQ`. -/
  | nseqWord
  /-- A word with at least one byte of `PCMBUF`. -/
  | pcmWord
  /-- A reserved offset (R41) or an unmapped address (R51). -/
  | unmapped
deriving DecidableEq, Repr

/-- The map of R50. A word counts as `NSEQ` or `PCMBUF` when its first byte is in the memory (log 10). -/
def locate (s : State) (a : Nat) : Location :=
  if a < 0x1000 then
    match regAt a with
    | some r => .reg r
    | none => .unmapped
  else if s.inNseq a then .nseqWord
  else if s.inPcm a then .pcmWord
  else .unmapped

/-- A byte as the host sees it: the bytes at and beyond a depth read 0 (R51, R55, R57(b)). -/
def State.busByte (s : State) (a : Nat) : Byte :=
  if s.inNseq a || s.inPcm a then s.readByte a else 0#8

/-- Four bytes, little-endian (R55, R57(b)). -/
def State.busWord (s : State) (a : Nat) : Word :=
  s.busByte (a + 3) ++ s.busByte (a + 2) ++ s.busByte (a + 1) ++ s.busByte a

/-- `STATUS` as a read while busy gives it: BUSY 1, DONE 0, ECODE 0, the present WBUSY, AXV open (R232). -/
def busyStatus (st : Status) (axv : Bool) : Status :=
  { busy := true, done := false, wbusy := st.wbusy, axv := axv, ecode := 0#4 }

/-- The value of a host read while idle: the present value (R43, R51, R55, R57). -/
def idleRead (s : State) (a : Nat) : Word :=
  match locate s a with
  | .reg r => readReg r s
  | .nseqWord => s.busWord a
  | .pcmWord => s.busWord a
  | .unmapped => 0x00000000#32

/-- The value of a host read while busy (R232), `open_` standing for "any value" (log 7). -/
def busyRead (s : State) (a : Nat) (open_ : Word) : Word :=
  match locate s a with
  | .reg .status => (busyStatus s.status (open_.getLsbD 3)).word
  | .reg r => if r.openWhileBusy then open_ else readReg r s
  | .nseqWord => s.busWord a
  | .pcmWord => open_
  | .unmapped => 0x00000000#32

/-- A host read: the value is recorded, and nothing of the block changes (R54, R232). -/
def busRead (a : Nat) (s : State) : State :=
  if s.status.busy then
    { s with
        readLog := busyRead s a (Config.busyReadWord s.freeCount) :: s.readLog
        freeCount := s.freeCount + 1 }
  else { s with readLog := idleRead s a :: s.readLog }

/-- A byte of a word write to `NSEQ`: dropped at or beyond the depth (R55). -/
def State.writeNseqByte (s : State) (a : Nat) (b : Byte) : State :=
  if s.inNseq a then s.writeByte a b else s

/-- A word write to `NSEQ` (R55): bits [7:0] to the first byte. -/
def State.writeNseqWord (s : State) (a : Nat) (data : Word) : State :=
  (((s.writeNseqByte a (data.extractLsb' 0 8)).writeNseqByte (a + 1) (data.extractLsb' 8 8)).writeNseqByte
    (a + 2) (data.extractLsb' 16 8)).writeNseqByte (a + 3) (data.extractLsb' 24 8)

/-- A host write to `CMD` (R90). A NOP is run at the write itself (R180). -/
def issueCommand (w : Word) (s : State) : Host.Outcome State Fault Refusal :=
  if w = 0x00000000#32 then exec .nop s
  else if s.status.busy then .next s.ignoreWrite
  else .next (s.accept w)

/-- The location is writable (R28): `CMD`, an RW register or `NSEQ`. -/
def Location.writable : Location → Bool
  | .reg r => r.writable
  | .nseqWord => true
  | .pcmWord => false
  | .unmapped => false

/-- A host write. While busy a write to a writable location only sets `WBUSY` (R28, R230). A write to a
read-only, reserved or unmapped location does nothing, busy or not (R28, R41, R42, R51, R56). -/
def busWrite (a : Nat) (data : Word) (s : State) : Host.Outcome State Fault Refusal :=
  match locate s a with
  | .reg .cmd => issueCommand data s
  | loc =>
    if loc.writable = false then .next s
    else if s.status.busy then .next s.ignoreWrite
    else
      match loc with
      | .reg r => .next (writeReg r data s)
      | _ => .next (s.writeNseqWord a data)

/-- Reset (R220): the state of `State.reset`, with the block's own parameters (R220(a)), memory
unspecified afresh (R221), and the outside world's plans and record as they were. -/
def State.applyReset (s : State) : State :=
  { State.reset with
      nseqCap := s.nseqCap
      pcmCap := s.pcmCap
      pending := s.pending
      gaps := s.gaps
      readLog := s.readLog
      freeCount := s.freeCount
      epoch := s.epoch + 1 }

/-- The contract of R52: 32 bits wide, at a multiple of 4. -/
def aligned (a : Word) : Bool := decide (a.toNat % 4 = 0)

/-- One event from outside. An access outside the contract is refused (R52, R63; log 12). -/
def busEvent (ev : BusEvent) (s : State) : Host.Outcome State Fault Refusal :=
  match ev with
  | .read width a =>
    if width ≠ 4 then .refused .accessWidth
    else if aligned a = false then .refused .misaligned
    else .next (busRead a.toNat s)
  | .write width a data =>
    if width ≠ 4 then .refused .accessWidth
    else if aligned a = false then .refused .misaligned
    else busWrite a.toNat data s
  | .reset => .next s.applyReset
  | .otherMaster => .refused .secondMaster

/-- One engine step: decode `e.cw` and run the command, or raise IllegalCommand (R86, R91). -/
def engineStep (s : State) : Host.Outcome State Fault Refusal :=
  match decode s.eng.cw with
  | .ok i => exec i s
  | .error _ => .next (s.raise .illegalCommand 0x00000000#32)

/-- Who moves next. -/
inductive Turn where
  /-- The engine makes a step of the command in flight. -/
  | engine
  /-- An event from outside. -/
  | outside (ev : BusEvent)
  /-- Nothing is in flight and nothing is pending (R205). -/
  | idle
deriving DecidableEq, Repr

/-- Whose event comes next (R91, R241; log 5). While busy, the head of `gaps` is how many outside events
still come before the engine's next step; when none is left pending the engine moves. -/
def State.turn (s : State) : Turn :=
  match s.pending with
  | [] => if s.status.busy then .engine else .idle
  | ev :: _ => if s.status.busy && (s.gaps.headD 0 == 0) then .engine else .outside ev

/-- The engine takes its turn: the gap before its step is used up. -/
def State.takeEngineTurn (s : State) : State := { s with gaps := s.gaps.tail }

/-- The outside takes its turn: its event is no longer pending, and while busy the gap is one less. -/
def State.takeOutsideTurn (s : State) : State :=
  { s with
      pending := s.pending.tail
      gaps := if s.status.busy then (s.gaps.headD 0 - 1) :: s.gaps.tail else s.gaps }

/-- The command `w` stands accepted and the engine moves next: what the host's write of a word other
than 0 to `CMD` leaves (R90; log 6). -/
def State.withAccepted (s : State) (w : Word) : State :=
  { s.accept w with gaps := if s.gaps.headD 0 = 0 then s.gaps else 0 :: s.gaps }

/-- The host's write of `w` to `CMD` is the next event (log 6). -/
def State.withCmdWrite (s : State) (w : Word) : State :=
  { s with
      pending := .write 4 0x00000000#32 w :: s.pending
      gaps := if s.status.busy then (s.gaps.headD 0 + 1) :: s.gaps.tail else s.gaps }

/-- The word of `withFetchWord` placed where the next step takes its command from: the engine's `e.cw`;
but a NOP is never accepted (R90, R180), so its word is the next host write to `CMD`. -/
def State.placeCommand (s : State) (w : Word) : State :=
  if w = 0x00000000#32 then s.withCmdWrite w else s.withAccepted w

end Sys2Proof.Machine
end

