-- ==== Sys2Proof/Machine/Step.lean ====
section
/-! DEFINITION. One step: one event of the total order of spec/20_memory.md R61. -/

namespace Sys2Proof.Machine

/-- One event: an engine step, an event from outside, or nothing. -/
def step (s : State) : Host.Outcome State Fault Refusal :=
  match s.turn with
  | .engine => engineStep s.takeEngineTurn
  | .outside ev => busEvent ev s.takeOutsideTurn
  | .idle => .next s

/-- `s` with the instruction whose bits are `w` placed so that the very next step runs it (log 6). -/
def State.withFetchWord (s : State) (nbits w : Nat) : State :=
  s.placeCommand (BitVec.ofNat 32 (w % 2 ^ nbits))

end Sys2Proof.Machine
end

