-- ==== Sys2Proof/Safety.lean ====
section
/-! DEFINITION. What the claims call a good state and a host that keeps its contract. -/

namespace Sys2Proof.Machine

/-- An event inside the contract of the host interface (R52, R63): 32 bits wide, aligned, one master. -/
def BusEvent.inContract : BusEvent → Bool
  | .read width a => decide (width = 4) && aligned a
  | .write width a _ => decide (width = 4) && aligned a
  | .reset => true
  | .otherMaster => false

/-- The SYNTH command of a recognised shape (R163 to R165). -/
def synthInstr : Wave → Instr
  | .sine => .synthSin
  | .pulse => .synthPul
  | .saw => .synthSaw

/-- The OSC command of a recognised shape (R135 to R137). -/
def oscInstr : Wave → Nat → Instr
  | .sine, note => .oscSin note
  | .pulse, note => .oscPul note
  | .saw, note => .oscSaw note

/-- What holds between the sample steps of a SYNTH, because the first step checked it and no write can
change it while busy (spec/45_sequencer.md R160, R161; spec/10_state.md R38; spec/20_memory.md R59). -/
structure Generating (s : State) : Prop where
  /-- A SYNTH of a recognised shape is in flight, and its shape's parameter is finite. -/
  shape : ∃ w, decode s.eng.cw = .ok (synthInstr w) ∧ shapeParamOk w s = true
  /-- The notes are in `NSEQ` (check 1 of R160). -/
  notes_fit : s.ncount.toNat ≤ s.nseqDepth
  /-- Every code is a note (check 2 of R160). -/
  notes_valid : ∀ j, j < s.ncount.toNat → s.noteCode j ≤ 12
  /-- The axis is the one `e.N` came from. -/
  axis_held : s.status.axv = true ∧ s.nsamp.toNat = s.eng.n
  /-- `np` is the index of a note (R38). -/
  np_bound : s.eng.np < s.ncount.toNat
  /-- `kp` is the index of a sample of the note (R39). -/
  kp_bound : s.eng.kp < s.eng.n
  /-- The output fits `PCMBUF` (check 6 of R160). -/
  output_fits : s.ncount.toNat * s.eng.n ≤ s.pcmDepth

/-- A good state: what holds at reset and after every step. -/
structure Inv (s : State) : Prop where
  /-- Memory is in its canonical form. -/
  memory_wf : Memory.wf s.mem = true
  /-- Memory holds bytes of `NSEQ` and `PCMBUF` and nothing else (R50, R51). -/
  memory_mapped : ∀ c ∈ s.mem, s.inNseq c.1 = true ∨ s.inPcm c.1 = true
  /-- The legal range of `NSEQ_DEPTH` (R6). -/
  nseq_range : 1 ≤ s.nseqDepth ∧ s.nseqDepth ≤ 4096
  /-- The legal range of `PCM_DEPTH` (R6). -/
  pcm_range : 1 ≤ s.pcmDepth ∧ s.pcmDepth ≤ 8388608
  /-- The reserved bits [15:13] and [31:24] of `ERRINFO` read 0 (R31, R41). -/
  errinfo_reserved : s.errinfo &&& 0xFF00E000#32 = 0x00000000#32
  /-- Bits [31:16] of `PCM` are 0 (R36). -/
  pcm_reserved : s.pcm &&& 0xFFFF0000#32 = 0x00000000#32
  /-- The reserved codes 9 to 15 are never written (R190). -/
  ecode_named : s.status.ecode.toNat ≤ 8
  /-- While busy, `DONE` and `ECODE` are 0 (R90, R232) and a word other than NOP is in flight (R180). -/
  busy_clean : s.status.busy = true → s.status.done = false ∧ s.status.ecode = 0#4 ∧ s.eng.cw ≠ 0x00000000#32
  /-- `AXV` is 1 only when `DUR` and `NSAMP` hold the axis of the present `BPM` (R25, R29). -/
  axis_fresh : s.status.axv = true → axis s.bpm = some (s.dur, s.nsamp.toNat)
  /-- `OUTLEN` samples fit `PCMBUF` (R37, R162). -/
  outlen_fits : s.outlen.toNat ≤ s.pcmDepth
  /-- Between the sample steps of a SYNTH. -/
  generating : s.status.busy = true → s.eng.phase = .generate → Generating s

/-- A run that never stops: from `s`, after any number of steps, there is a state (no fault, no refusal). -/
def RunsForever (s : State) : Prop := ∀ k, ∃ t, Sys2Proof.core.run k s = .next t

end Sys2Proof.Machine
end

