-- ==== Sys2Proof/Laws/State.lean ====
section
/-! SUPPORT. What each named update does to each field of the state: one lemma per field per update, each
true by rfl, so that no proof unfolds a record update. -/

namespace Sys2Proof.Machine

/-! ### State.ignoreWrite -/

@[simp] theorem State.ignoreWrite_status (s : State) : (s.ignoreWrite).status = { s.status with wbusy := true } := rfl
@[simp] theorem State.ignoreWrite_errinfo (s : State) : (s.ignoreWrite).errinfo = s.errinfo := rfl
@[simp] theorem State.ignoreWrite_ncount (s : State) : (s.ignoreWrite).ncount = s.ncount := rfl
@[simp] theorem State.ignoreWrite_bpm (s : State) : (s.ignoreWrite).bpm = s.bpm := rfl
@[simp] theorem State.ignoreWrite_duty (s : State) : (s.ignoreWrite).duty = s.duty := rfl
@[simp] theorem State.ignoreWrite_width (s : State) : (s.ignoreWrite).width = s.width := rfl
@[simp] theorem State.ignoreWrite_kidx (s : State) : (s.ignoreWrite).kidx = s.kidx := rfl
@[simp] theorem State.ignoreWrite_nsamp (s : State) : (s.ignoreWrite).nsamp = s.nsamp := rfl
@[simp] theorem State.ignoreWrite_dur (s : State) : (s.ignoreWrite).dur = s.dur := rfl
@[simp] theorem State.ignoreWrite_freq (s : State) : (s.ignoreWrite).freq = s.freq := rfl
@[simp] theorem State.ignoreWrite_sample (s : State) : (s.ignoreWrite).sample = s.sample := rfl
@[simp] theorem State.ignoreWrite_pcm (s : State) : (s.ignoreWrite).pcm = s.pcm := rfl
@[simp] theorem State.ignoreWrite_outlen (s : State) : (s.ignoreWrite).outlen = s.outlen := rfl
@[simp] theorem State.ignoreWrite_nseqCap (s : State) : (s.ignoreWrite).nseqCap = s.nseqCap := rfl
@[simp] theorem State.ignoreWrite_pcmCap (s : State) : (s.ignoreWrite).pcmCap = s.pcmCap := rfl
@[simp] theorem State.ignoreWrite_mem (s : State) : (s.ignoreWrite).mem = s.mem := rfl
@[simp] theorem State.ignoreWrite_eng (s : State) : (s.ignoreWrite).eng = s.eng := rfl
@[simp] theorem State.ignoreWrite_pending (s : State) : (s.ignoreWrite).pending = s.pending := rfl
@[simp] theorem State.ignoreWrite_gaps (s : State) : (s.ignoreWrite).gaps = s.gaps := rfl
@[simp] theorem State.ignoreWrite_readLog (s : State) : (s.ignoreWrite).readLog = s.readLog := rfl
@[simp] theorem State.ignoreWrite_freeCount (s : State) : (s.ignoreWrite).freeCount = s.freeCount := rfl
@[simp] theorem State.ignoreWrite_epoch (s : State) : (s.ignoreWrite).epoch = s.epoch := rfl

/-! ### State.accept -/

@[simp] theorem State.accept_status (s : State) (w : Word) : (s.accept w).status = s.status.accepted := rfl
@[simp] theorem State.accept_errinfo (s : State) (w : Word) : (s.accept w).errinfo = s.errinfo := rfl
@[simp] theorem State.accept_ncount (s : State) (w : Word) : (s.accept w).ncount = s.ncount := rfl
@[simp] theorem State.accept_bpm (s : State) (w : Word) : (s.accept w).bpm = s.bpm := rfl
@[simp] theorem State.accept_duty (s : State) (w : Word) : (s.accept w).duty = s.duty := rfl
@[simp] theorem State.accept_width (s : State) (w : Word) : (s.accept w).width = s.width := rfl
@[simp] theorem State.accept_kidx (s : State) (w : Word) : (s.accept w).kidx = s.kidx := rfl
@[simp] theorem State.accept_nsamp (s : State) (w : Word) : (s.accept w).nsamp = s.nsamp := rfl
@[simp] theorem State.accept_dur (s : State) (w : Word) : (s.accept w).dur = s.dur := rfl
@[simp] theorem State.accept_freq (s : State) (w : Word) : (s.accept w).freq = s.freq := rfl
@[simp] theorem State.accept_sample (s : State) (w : Word) : (s.accept w).sample = s.sample := rfl
@[simp] theorem State.accept_pcm (s : State) (w : Word) : (s.accept w).pcm = s.pcm := rfl
@[simp] theorem State.accept_outlen (s : State) (w : Word) : (s.accept w).outlen = s.outlen := rfl
@[simp] theorem State.accept_nseqCap (s : State) (w : Word) : (s.accept w).nseqCap = s.nseqCap := rfl
@[simp] theorem State.accept_pcmCap (s : State) (w : Word) : (s.accept w).pcmCap = s.pcmCap := rfl
@[simp] theorem State.accept_mem (s : State) (w : Word) : (s.accept w).mem = s.mem := rfl
@[simp] theorem State.accept_eng (s : State) (w : Word) : (s.accept w).eng = { s.eng with cw := w, phase := .start } := rfl
@[simp] theorem State.accept_pending (s : State) (w : Word) : (s.accept w).pending = s.pending := rfl
@[simp] theorem State.accept_gaps (s : State) (w : Word) : (s.accept w).gaps = s.gaps := rfl
@[simp] theorem State.accept_readLog (s : State) (w : Word) : (s.accept w).readLog = s.readLog := rfl
@[simp] theorem State.accept_freeCount (s : State) (w : Word) : (s.accept w).freeCount = s.freeCount := rfl
@[simp] theorem State.accept_epoch (s : State) (w : Word) : (s.accept w).epoch = s.epoch := rfl

/-! ### State.complete -/

@[simp] theorem State.complete_status (s : State) : (s.complete).status = s.status.completed true 0#4 := rfl
@[simp] theorem State.complete_errinfo (s : State) : (s.complete).errinfo = 0x00000000#32 := rfl
@[simp] theorem State.complete_ncount (s : State) : (s.complete).ncount = s.ncount := rfl
@[simp] theorem State.complete_bpm (s : State) : (s.complete).bpm = s.bpm := rfl
@[simp] theorem State.complete_duty (s : State) : (s.complete).duty = s.duty := rfl
@[simp] theorem State.complete_width (s : State) : (s.complete).width = s.width := rfl
@[simp] theorem State.complete_kidx (s : State) : (s.complete).kidx = s.kidx := rfl
@[simp] theorem State.complete_nsamp (s : State) : (s.complete).nsamp = s.nsamp := rfl
@[simp] theorem State.complete_dur (s : State) : (s.complete).dur = s.dur := rfl
@[simp] theorem State.complete_freq (s : State) : (s.complete).freq = s.freq := rfl
@[simp] theorem State.complete_sample (s : State) : (s.complete).sample = s.sample := rfl
@[simp] theorem State.complete_pcm (s : State) : (s.complete).pcm = s.pcm := rfl
@[simp] theorem State.complete_outlen (s : State) : (s.complete).outlen = s.outlen := rfl
@[simp] theorem State.complete_nseqCap (s : State) : (s.complete).nseqCap = s.nseqCap := rfl
@[simp] theorem State.complete_pcmCap (s : State) : (s.complete).pcmCap = s.pcmCap := rfl
@[simp] theorem State.complete_mem (s : State) : (s.complete).mem = s.mem := rfl
@[simp] theorem State.complete_eng (s : State) : (s.complete).eng = s.eng := rfl
@[simp] theorem State.complete_pending (s : State) : (s.complete).pending = s.pending := rfl
@[simp] theorem State.complete_gaps (s : State) : (s.complete).gaps = s.gaps := rfl
@[simp] theorem State.complete_readLog (s : State) : (s.complete).readLog = s.readLog := rfl
@[simp] theorem State.complete_freeCount (s : State) : (s.complete).freeCount = s.freeCount := rfl
@[simp] theorem State.complete_epoch (s : State) : (s.complete).epoch = s.epoch := rfl

/-! ### State.completeClear -/

@[simp] theorem State.completeClear_status (s : State) : (s.completeClear).status = s.status.completed false 0#4 := rfl
@[simp] theorem State.completeClear_errinfo (s : State) : (s.completeClear).errinfo = 0x00000000#32 := rfl
@[simp] theorem State.completeClear_ncount (s : State) : (s.completeClear).ncount = s.ncount := rfl
@[simp] theorem State.completeClear_bpm (s : State) : (s.completeClear).bpm = s.bpm := rfl
@[simp] theorem State.completeClear_duty (s : State) : (s.completeClear).duty = s.duty := rfl
@[simp] theorem State.completeClear_width (s : State) : (s.completeClear).width = s.width := rfl
@[simp] theorem State.completeClear_kidx (s : State) : (s.completeClear).kidx = s.kidx := rfl
@[simp] theorem State.completeClear_nsamp (s : State) : (s.completeClear).nsamp = s.nsamp := rfl
@[simp] theorem State.completeClear_dur (s : State) : (s.completeClear).dur = s.dur := rfl
@[simp] theorem State.completeClear_freq (s : State) : (s.completeClear).freq = s.freq := rfl
@[simp] theorem State.completeClear_sample (s : State) : (s.completeClear).sample = s.sample := rfl
@[simp] theorem State.completeClear_pcm (s : State) : (s.completeClear).pcm = s.pcm := rfl
@[simp] theorem State.completeClear_outlen (s : State) : (s.completeClear).outlen = s.outlen := rfl
@[simp] theorem State.completeClear_nseqCap (s : State) : (s.completeClear).nseqCap = s.nseqCap := rfl
@[simp] theorem State.completeClear_pcmCap (s : State) : (s.completeClear).pcmCap = s.pcmCap := rfl
@[simp] theorem State.completeClear_mem (s : State) : (s.completeClear).mem = s.mem := rfl
@[simp] theorem State.completeClear_eng (s : State) : (s.completeClear).eng = s.eng := rfl
@[simp] theorem State.completeClear_pending (s : State) : (s.completeClear).pending = s.pending := rfl
@[simp] theorem State.completeClear_gaps (s : State) : (s.completeClear).gaps = s.gaps := rfl
@[simp] theorem State.completeClear_readLog (s : State) : (s.completeClear).readLog = s.readLog := rfl
@[simp] theorem State.completeClear_freeCount (s : State) : (s.completeClear).freeCount = s.freeCount := rfl
@[simp] theorem State.completeClear_epoch (s : State) : (s.completeClear).epoch = s.epoch := rfl

/-! ### State.raise -/

@[simp] theorem State.raise_status (s : State) (e : BlockError) (info : Word) : (s.raise e info).status = s.status.completed true e.code := rfl
@[simp] theorem State.raise_errinfo (s : State) (e : BlockError) (info : Word) : (s.raise e info).errinfo = info := rfl
@[simp] theorem State.raise_ncount (s : State) (e : BlockError) (info : Word) : (s.raise e info).ncount = s.ncount := rfl
@[simp] theorem State.raise_bpm (s : State) (e : BlockError) (info : Word) : (s.raise e info).bpm = s.bpm := rfl
@[simp] theorem State.raise_duty (s : State) (e : BlockError) (info : Word) : (s.raise e info).duty = s.duty := rfl
@[simp] theorem State.raise_width (s : State) (e : BlockError) (info : Word) : (s.raise e info).width = s.width := rfl
@[simp] theorem State.raise_kidx (s : State) (e : BlockError) (info : Word) : (s.raise e info).kidx = s.kidx := rfl
@[simp] theorem State.raise_nsamp (s : State) (e : BlockError) (info : Word) : (s.raise e info).nsamp = s.nsamp := rfl
@[simp] theorem State.raise_dur (s : State) (e : BlockError) (info : Word) : (s.raise e info).dur = s.dur := rfl
@[simp] theorem State.raise_freq (s : State) (e : BlockError) (info : Word) : (s.raise e info).freq = s.freq := rfl
@[simp] theorem State.raise_sample (s : State) (e : BlockError) (info : Word) : (s.raise e info).sample = s.sample := rfl
@[simp] theorem State.raise_pcm (s : State) (e : BlockError) (info : Word) : (s.raise e info).pcm = s.pcm := rfl
@[simp] theorem State.raise_outlen (s : State) (e : BlockError) (info : Word) : (s.raise e info).outlen = s.outlen := rfl
@[simp] theorem State.raise_nseqCap (s : State) (e : BlockError) (info : Word) : (s.raise e info).nseqCap = s.nseqCap := rfl
@[simp] theorem State.raise_pcmCap (s : State) (e : BlockError) (info : Word) : (s.raise e info).pcmCap = s.pcmCap := rfl
@[simp] theorem State.raise_mem (s : State) (e : BlockError) (info : Word) : (s.raise e info).mem = s.mem := rfl
@[simp] theorem State.raise_eng (s : State) (e : BlockError) (info : Word) : (s.raise e info).eng = s.eng := rfl
@[simp] theorem State.raise_pending (s : State) (e : BlockError) (info : Word) : (s.raise e info).pending = s.pending := rfl
@[simp] theorem State.raise_gaps (s : State) (e : BlockError) (info : Word) : (s.raise e info).gaps = s.gaps := rfl
@[simp] theorem State.raise_readLog (s : State) (e : BlockError) (info : Word) : (s.raise e info).readLog = s.readLog := rfl
@[simp] theorem State.raise_freeCount (s : State) (e : BlockError) (info : Word) : (s.raise e info).freeCount = s.freeCount := rfl
@[simp] theorem State.raise_epoch (s : State) (e : BlockError) (info : Word) : (s.raise e info).epoch = s.epoch := rfl

/-! ### State.setAxis -/

@[simp] theorem State.setAxis_status (s : State) (d : F64) (n : Nat) : (s.setAxis d n).status = { s.status with axv := true } := rfl
@[simp] theorem State.setAxis_errinfo (s : State) (d : F64) (n : Nat) : (s.setAxis d n).errinfo = s.errinfo := rfl
@[simp] theorem State.setAxis_ncount (s : State) (d : F64) (n : Nat) : (s.setAxis d n).ncount = s.ncount := rfl
@[simp] theorem State.setAxis_bpm (s : State) (d : F64) (n : Nat) : (s.setAxis d n).bpm = s.bpm := rfl
@[simp] theorem State.setAxis_duty (s : State) (d : F64) (n : Nat) : (s.setAxis d n).duty = s.duty := rfl
@[simp] theorem State.setAxis_width (s : State) (d : F64) (n : Nat) : (s.setAxis d n).width = s.width := rfl
@[simp] theorem State.setAxis_kidx (s : State) (d : F64) (n : Nat) : (s.setAxis d n).kidx = s.kidx := rfl
@[simp] theorem State.setAxis_nsamp (s : State) (d : F64) (n : Nat) : (s.setAxis d n).nsamp = BitVec.ofNat 32 n := rfl
@[simp] theorem State.setAxis_dur (s : State) (d : F64) (n : Nat) : (s.setAxis d n).dur = d := rfl
@[simp] theorem State.setAxis_freq (s : State) (d : F64) (n : Nat) : (s.setAxis d n).freq = s.freq := rfl
@[simp] theorem State.setAxis_sample (s : State) (d : F64) (n : Nat) : (s.setAxis d n).sample = s.sample := rfl
@[simp] theorem State.setAxis_pcm (s : State) (d : F64) (n : Nat) : (s.setAxis d n).pcm = s.pcm := rfl
@[simp] theorem State.setAxis_outlen (s : State) (d : F64) (n : Nat) : (s.setAxis d n).outlen = s.outlen := rfl
@[simp] theorem State.setAxis_nseqCap (s : State) (d : F64) (n : Nat) : (s.setAxis d n).nseqCap = s.nseqCap := rfl
@[simp] theorem State.setAxis_pcmCap (s : State) (d : F64) (n : Nat) : (s.setAxis d n).pcmCap = s.pcmCap := rfl
@[simp] theorem State.setAxis_mem (s : State) (d : F64) (n : Nat) : (s.setAxis d n).mem = s.mem := rfl
@[simp] theorem State.setAxis_eng (s : State) (d : F64) (n : Nat) : (s.setAxis d n).eng = s.eng := rfl
@[simp] theorem State.setAxis_pending (s : State) (d : F64) (n : Nat) : (s.setAxis d n).pending = s.pending := rfl
@[simp] theorem State.setAxis_gaps (s : State) (d : F64) (n : Nat) : (s.setAxis d n).gaps = s.gaps := rfl
@[simp] theorem State.setAxis_readLog (s : State) (d : F64) (n : Nat) : (s.setAxis d n).readLog = s.readLog := rfl
@[simp] theorem State.setAxis_freeCount (s : State) (d : F64) (n : Nat) : (s.setAxis d n).freeCount = s.freeCount := rfl
@[simp] theorem State.setAxis_epoch (s : State) (d : F64) (n : Nat) : (s.setAxis d n).epoch = s.epoch := rfl

/-! ### State.raiseTempo -/

@[simp] theorem State.raiseTempo_status (s : State) : (s.raiseTempo).status = ({ s.status with axv := false } : Status).completed true 2#4 := rfl
@[simp] theorem State.raiseTempo_errinfo (s : State) : (s.raiseTempo).errinfo = 0x00000000#32 := rfl
@[simp] theorem State.raiseTempo_ncount (s : State) : (s.raiseTempo).ncount = s.ncount := rfl
@[simp] theorem State.raiseTempo_bpm (s : State) : (s.raiseTempo).bpm = s.bpm := rfl
@[simp] theorem State.raiseTempo_duty (s : State) : (s.raiseTempo).duty = s.duty := rfl
@[simp] theorem State.raiseTempo_width (s : State) : (s.raiseTempo).width = s.width := rfl
@[simp] theorem State.raiseTempo_kidx (s : State) : (s.raiseTempo).kidx = s.kidx := rfl
@[simp] theorem State.raiseTempo_nsamp (s : State) : (s.raiseTempo).nsamp = s.nsamp := rfl
@[simp] theorem State.raiseTempo_dur (s : State) : (s.raiseTempo).dur = s.dur := rfl
@[simp] theorem State.raiseTempo_freq (s : State) : (s.raiseTempo).freq = s.freq := rfl
@[simp] theorem State.raiseTempo_sample (s : State) : (s.raiseTempo).sample = s.sample := rfl
@[simp] theorem State.raiseTempo_pcm (s : State) : (s.raiseTempo).pcm = s.pcm := rfl
@[simp] theorem State.raiseTempo_outlen (s : State) : (s.raiseTempo).outlen = s.outlen := rfl
@[simp] theorem State.raiseTempo_nseqCap (s : State) : (s.raiseTempo).nseqCap = s.nseqCap := rfl
@[simp] theorem State.raiseTempo_pcmCap (s : State) : (s.raiseTempo).pcmCap = s.pcmCap := rfl
@[simp] theorem State.raiseTempo_mem (s : State) : (s.raiseTempo).mem = s.mem := rfl
@[simp] theorem State.raiseTempo_eng (s : State) : (s.raiseTempo).eng = s.eng := rfl
@[simp] theorem State.raiseTempo_pending (s : State) : (s.raiseTempo).pending = s.pending := rfl
@[simp] theorem State.raiseTempo_gaps (s : State) : (s.raiseTempo).gaps = s.gaps := rfl
@[simp] theorem State.raiseTempo_readLog (s : State) : (s.raiseTempo).readLog = s.readLog := rfl
@[simp] theorem State.raiseTempo_freeCount (s : State) : (s.raiseTempo).freeCount = s.freeCount := rfl
@[simp] theorem State.raiseTempo_epoch (s : State) : (s.raiseTempo).epoch = s.epoch := rfl

/-! ### State.beginSamples -/

@[simp] theorem State.beginSamples_status (s : State) (n : Nat) : (s.beginSamples n).status = s.status := rfl
@[simp] theorem State.beginSamples_errinfo (s : State) (n : Nat) : (s.beginSamples n).errinfo = s.errinfo := rfl
@[simp] theorem State.beginSamples_ncount (s : State) (n : Nat) : (s.beginSamples n).ncount = s.ncount := rfl
@[simp] theorem State.beginSamples_bpm (s : State) (n : Nat) : (s.beginSamples n).bpm = s.bpm := rfl
@[simp] theorem State.beginSamples_duty (s : State) (n : Nat) : (s.beginSamples n).duty = s.duty := rfl
@[simp] theorem State.beginSamples_width (s : State) (n : Nat) : (s.beginSamples n).width = s.width := rfl
@[simp] theorem State.beginSamples_kidx (s : State) (n : Nat) : (s.beginSamples n).kidx = s.kidx := rfl
@[simp] theorem State.beginSamples_nsamp (s : State) (n : Nat) : (s.beginSamples n).nsamp = s.nsamp := rfl
@[simp] theorem State.beginSamples_dur (s : State) (n : Nat) : (s.beginSamples n).dur = s.dur := rfl
@[simp] theorem State.beginSamples_freq (s : State) (n : Nat) : (s.beginSamples n).freq = s.freq := rfl
@[simp] theorem State.beginSamples_sample (s : State) (n : Nat) : (s.beginSamples n).sample = s.sample := rfl
@[simp] theorem State.beginSamples_pcm (s : State) (n : Nat) : (s.beginSamples n).pcm = s.pcm := rfl
@[simp] theorem State.beginSamples_outlen (s : State) (n : Nat) : (s.beginSamples n).outlen = s.outlen := rfl
@[simp] theorem State.beginSamples_nseqCap (s : State) (n : Nat) : (s.beginSamples n).nseqCap = s.nseqCap := rfl
@[simp] theorem State.beginSamples_pcmCap (s : State) (n : Nat) : (s.beginSamples n).pcmCap = s.pcmCap := rfl
@[simp] theorem State.beginSamples_mem (s : State) (n : Nat) : (s.beginSamples n).mem = s.mem := rfl
@[simp] theorem State.beginSamples_eng (s : State) (n : Nat) : (s.beginSamples n).eng = { s.eng with n := n, np := 0, kp := 0, phase := .generate } := rfl
@[simp] theorem State.beginSamples_pending (s : State) (n : Nat) : (s.beginSamples n).pending = s.pending := rfl
@[simp] theorem State.beginSamples_gaps (s : State) (n : Nat) : (s.beginSamples n).gaps = s.gaps := rfl
@[simp] theorem State.beginSamples_readLog (s : State) (n : Nat) : (s.beginSamples n).readLog = s.readLog := rfl
@[simp] theorem State.beginSamples_freeCount (s : State) (n : Nat) : (s.beginSamples n).freeCount = s.freeCount := rfl
@[simp] theorem State.beginSamples_epoch (s : State) (n : Nat) : (s.beginSamples n).epoch = s.epoch := rfl

/-! ### State.finishSynth -/

@[simp] theorem State.finishSynth_status (s : State) : (s.finishSynth).status = s.status.completed true 0#4 := rfl
@[simp] theorem State.finishSynth_errinfo (s : State) : (s.finishSynth).errinfo = 0x00000000#32 := rfl
@[simp] theorem State.finishSynth_ncount (s : State) : (s.finishSynth).ncount = s.ncount := rfl
@[simp] theorem State.finishSynth_bpm (s : State) : (s.finishSynth).bpm = s.bpm := rfl
@[simp] theorem State.finishSynth_duty (s : State) : (s.finishSynth).duty = s.duty := rfl
@[simp] theorem State.finishSynth_width (s : State) : (s.finishSynth).width = s.width := rfl
@[simp] theorem State.finishSynth_kidx (s : State) : (s.finishSynth).kidx = s.kidx := rfl
@[simp] theorem State.finishSynth_nsamp (s : State) : (s.finishSynth).nsamp = s.nsamp := rfl
@[simp] theorem State.finishSynth_dur (s : State) : (s.finishSynth).dur = s.dur := rfl
@[simp] theorem State.finishSynth_freq (s : State) : (s.finishSynth).freq = s.freq := rfl
@[simp] theorem State.finishSynth_sample (s : State) : (s.finishSynth).sample = s.sample := rfl
@[simp] theorem State.finishSynth_pcm (s : State) : (s.finishSynth).pcm = s.pcm := rfl
@[simp] theorem State.finishSynth_outlen (s : State) : (s.finishSynth).outlen = BitVec.ofNat 32 (s.ncount.toNat * s.eng.n) := rfl
@[simp] theorem State.finishSynth_nseqCap (s : State) : (s.finishSynth).nseqCap = s.nseqCap := rfl
@[simp] theorem State.finishSynth_pcmCap (s : State) : (s.finishSynth).pcmCap = s.pcmCap := rfl
@[simp] theorem State.finishSynth_mem (s : State) : (s.finishSynth).mem = s.mem := rfl
@[simp] theorem State.finishSynth_eng (s : State) : (s.finishSynth).eng = s.eng := rfl
@[simp] theorem State.finishSynth_pending (s : State) : (s.finishSynth).pending = s.pending := rfl
@[simp] theorem State.finishSynth_gaps (s : State) : (s.finishSynth).gaps = s.gaps := rfl
@[simp] theorem State.finishSynth_readLog (s : State) : (s.finishSynth).readLog = s.readLog := rfl
@[simp] theorem State.finishSynth_freeCount (s : State) : (s.finishSynth).freeCount = s.freeCount := rfl
@[simp] theorem State.finishSynth_epoch (s : State) : (s.finishSynth).epoch = s.epoch := rfl

/-! ### State.writeByte -/

@[simp] theorem State.writeByte_status (s : State) (a : Nat) (b : Byte) : (s.writeByte a b).status = s.status := rfl
@[simp] theorem State.writeByte_errinfo (s : State) (a : Nat) (b : Byte) : (s.writeByte a b).errinfo = s.errinfo := rfl
@[simp] theorem State.writeByte_ncount (s : State) (a : Nat) (b : Byte) : (s.writeByte a b).ncount = s.ncount := rfl
@[simp] theorem State.writeByte_bpm (s : State) (a : Nat) (b : Byte) : (s.writeByte a b).bpm = s.bpm := rfl
@[simp] theorem State.writeByte_duty (s : State) (a : Nat) (b : Byte) : (s.writeByte a b).duty = s.duty := rfl
@[simp] theorem State.writeByte_width (s : State) (a : Nat) (b : Byte) : (s.writeByte a b).width = s.width := rfl
@[simp] theorem State.writeByte_kidx (s : State) (a : Nat) (b : Byte) : (s.writeByte a b).kidx = s.kidx := rfl
@[simp] theorem State.writeByte_nsamp (s : State) (a : Nat) (b : Byte) : (s.writeByte a b).nsamp = s.nsamp := rfl
@[simp] theorem State.writeByte_dur (s : State) (a : Nat) (b : Byte) : (s.writeByte a b).dur = s.dur := rfl
@[simp] theorem State.writeByte_freq (s : State) (a : Nat) (b : Byte) : (s.writeByte a b).freq = s.freq := rfl
@[simp] theorem State.writeByte_sample (s : State) (a : Nat) (b : Byte) : (s.writeByte a b).sample = s.sample := rfl
@[simp] theorem State.writeByte_pcm (s : State) (a : Nat) (b : Byte) : (s.writeByte a b).pcm = s.pcm := rfl
@[simp] theorem State.writeByte_outlen (s : State) (a : Nat) (b : Byte) : (s.writeByte a b).outlen = s.outlen := rfl
@[simp] theorem State.writeByte_nseqCap (s : State) (a : Nat) (b : Byte) : (s.writeByte a b).nseqCap = s.nseqCap := rfl
@[simp] theorem State.writeByte_pcmCap (s : State) (a : Nat) (b : Byte) : (s.writeByte a b).pcmCap = s.pcmCap := rfl
@[simp] theorem State.writeByte_mem (s : State) (a : Nat) (b : Byte) : (s.writeByte a b).mem = Memory.store s.mem a b := rfl
@[simp] theorem State.writeByte_eng (s : State) (a : Nat) (b : Byte) : (s.writeByte a b).eng = s.eng := rfl
@[simp] theorem State.writeByte_pending (s : State) (a : Nat) (b : Byte) : (s.writeByte a b).pending = s.pending := rfl
@[simp] theorem State.writeByte_gaps (s : State) (a : Nat) (b : Byte) : (s.writeByte a b).gaps = s.gaps := rfl
@[simp] theorem State.writeByte_readLog (s : State) (a : Nat) (b : Byte) : (s.writeByte a b).readLog = s.readLog := rfl
@[simp] theorem State.writeByte_freeCount (s : State) (a : Nat) (b : Byte) : (s.writeByte a b).freeCount = s.freeCount := rfl
@[simp] theorem State.writeByte_epoch (s : State) (a : Nat) (b : Byte) : (s.writeByte a b).epoch = s.epoch := rfl

/-! ### State.writePcm -/

@[simp] theorem State.writePcm_status (s : State) (n : Nat) (v : BitVec 16) : (s.writePcm n v).status = s.status := rfl
@[simp] theorem State.writePcm_errinfo (s : State) (n : Nat) (v : BitVec 16) : (s.writePcm n v).errinfo = s.errinfo := rfl
@[simp] theorem State.writePcm_ncount (s : State) (n : Nat) (v : BitVec 16) : (s.writePcm n v).ncount = s.ncount := rfl
@[simp] theorem State.writePcm_bpm (s : State) (n : Nat) (v : BitVec 16) : (s.writePcm n v).bpm = s.bpm := rfl
@[simp] theorem State.writePcm_duty (s : State) (n : Nat) (v : BitVec 16) : (s.writePcm n v).duty = s.duty := rfl
@[simp] theorem State.writePcm_width (s : State) (n : Nat) (v : BitVec 16) : (s.writePcm n v).width = s.width := rfl
@[simp] theorem State.writePcm_kidx (s : State) (n : Nat) (v : BitVec 16) : (s.writePcm n v).kidx = s.kidx := rfl
@[simp] theorem State.writePcm_nsamp (s : State) (n : Nat) (v : BitVec 16) : (s.writePcm n v).nsamp = s.nsamp := rfl
@[simp] theorem State.writePcm_dur (s : State) (n : Nat) (v : BitVec 16) : (s.writePcm n v).dur = s.dur := rfl
@[simp] theorem State.writePcm_freq (s : State) (n : Nat) (v : BitVec 16) : (s.writePcm n v).freq = s.freq := rfl
@[simp] theorem State.writePcm_sample (s : State) (n : Nat) (v : BitVec 16) : (s.writePcm n v).sample = s.sample := rfl
@[simp] theorem State.writePcm_pcm (s : State) (n : Nat) (v : BitVec 16) : (s.writePcm n v).pcm = s.pcm := rfl
@[simp] theorem State.writePcm_outlen (s : State) (n : Nat) (v : BitVec 16) : (s.writePcm n v).outlen = s.outlen := rfl
@[simp] theorem State.writePcm_nseqCap (s : State) (n : Nat) (v : BitVec 16) : (s.writePcm n v).nseqCap = s.nseqCap := rfl
@[simp] theorem State.writePcm_pcmCap (s : State) (n : Nat) (v : BitVec 16) : (s.writePcm n v).pcmCap = s.pcmCap := rfl
@[simp] theorem State.writePcm_mem (s : State) (n : Nat) (v : BitVec 16) : (s.writePcm n v).mem = Memory.store (Memory.store s.mem (pcmAddr n) (v.extractLsb' 0 8)) (pcmAddr n + 1) (v.extractLsb' 8 8) := rfl
@[simp] theorem State.writePcm_eng (s : State) (n : Nat) (v : BitVec 16) : (s.writePcm n v).eng = s.eng := rfl
@[simp] theorem State.writePcm_pending (s : State) (n : Nat) (v : BitVec 16) : (s.writePcm n v).pending = s.pending := rfl
@[simp] theorem State.writePcm_gaps (s : State) (n : Nat) (v : BitVec 16) : (s.writePcm n v).gaps = s.gaps := rfl
@[simp] theorem State.writePcm_readLog (s : State) (n : Nat) (v : BitVec 16) : (s.writePcm n v).readLog = s.readLog := rfl
@[simp] theorem State.writePcm_freeCount (s : State) (n : Nat) (v : BitVec 16) : (s.writePcm n v).freeCount = s.freeCount := rfl
@[simp] theorem State.writePcm_epoch (s : State) (n : Nat) (v : BitVec 16) : (s.writePcm n v).epoch = s.epoch := rfl

/-! ### State.takeEngineTurn -/

@[simp] theorem State.takeEngineTurn_status (s : State) : (s.takeEngineTurn).status = s.status := rfl
@[simp] theorem State.takeEngineTurn_errinfo (s : State) : (s.takeEngineTurn).errinfo = s.errinfo := rfl
@[simp] theorem State.takeEngineTurn_ncount (s : State) : (s.takeEngineTurn).ncount = s.ncount := rfl
@[simp] theorem State.takeEngineTurn_bpm (s : State) : (s.takeEngineTurn).bpm = s.bpm := rfl
@[simp] theorem State.takeEngineTurn_duty (s : State) : (s.takeEngineTurn).duty = s.duty := rfl
@[simp] theorem State.takeEngineTurn_width (s : State) : (s.takeEngineTurn).width = s.width := rfl
@[simp] theorem State.takeEngineTurn_kidx (s : State) : (s.takeEngineTurn).kidx = s.kidx := rfl
@[simp] theorem State.takeEngineTurn_nsamp (s : State) : (s.takeEngineTurn).nsamp = s.nsamp := rfl
@[simp] theorem State.takeEngineTurn_dur (s : State) : (s.takeEngineTurn).dur = s.dur := rfl
@[simp] theorem State.takeEngineTurn_freq (s : State) : (s.takeEngineTurn).freq = s.freq := rfl
@[simp] theorem State.takeEngineTurn_sample (s : State) : (s.takeEngineTurn).sample = s.sample := rfl
@[simp] theorem State.takeEngineTurn_pcm (s : State) : (s.takeEngineTurn).pcm = s.pcm := rfl
@[simp] theorem State.takeEngineTurn_outlen (s : State) : (s.takeEngineTurn).outlen = s.outlen := rfl
@[simp] theorem State.takeEngineTurn_nseqCap (s : State) : (s.takeEngineTurn).nseqCap = s.nseqCap := rfl
@[simp] theorem State.takeEngineTurn_pcmCap (s : State) : (s.takeEngineTurn).pcmCap = s.pcmCap := rfl
@[simp] theorem State.takeEngineTurn_mem (s : State) : (s.takeEngineTurn).mem = s.mem := rfl
@[simp] theorem State.takeEngineTurn_eng (s : State) : (s.takeEngineTurn).eng = s.eng := rfl
@[simp] theorem State.takeEngineTurn_pending (s : State) : (s.takeEngineTurn).pending = s.pending := rfl
@[simp] theorem State.takeEngineTurn_gaps (s : State) : (s.takeEngineTurn).gaps = s.gaps.tail := rfl
@[simp] theorem State.takeEngineTurn_readLog (s : State) : (s.takeEngineTurn).readLog = s.readLog := rfl
@[simp] theorem State.takeEngineTurn_freeCount (s : State) : (s.takeEngineTurn).freeCount = s.freeCount := rfl
@[simp] theorem State.takeEngineTurn_epoch (s : State) : (s.takeEngineTurn).epoch = s.epoch := rfl

/-! ### State.takeOutsideTurn -/

@[simp] theorem State.takeOutsideTurn_status (s : State) : (s.takeOutsideTurn).status = s.status := rfl
@[simp] theorem State.takeOutsideTurn_errinfo (s : State) : (s.takeOutsideTurn).errinfo = s.errinfo := rfl
@[simp] theorem State.takeOutsideTurn_ncount (s : State) : (s.takeOutsideTurn).ncount = s.ncount := rfl
@[simp] theorem State.takeOutsideTurn_bpm (s : State) : (s.takeOutsideTurn).bpm = s.bpm := rfl
@[simp] theorem State.takeOutsideTurn_duty (s : State) : (s.takeOutsideTurn).duty = s.duty := rfl
@[simp] theorem State.takeOutsideTurn_width (s : State) : (s.takeOutsideTurn).width = s.width := rfl
@[simp] theorem State.takeOutsideTurn_kidx (s : State) : (s.takeOutsideTurn).kidx = s.kidx := rfl
@[simp] theorem State.takeOutsideTurn_nsamp (s : State) : (s.takeOutsideTurn).nsamp = s.nsamp := rfl
@[simp] theorem State.takeOutsideTurn_dur (s : State) : (s.takeOutsideTurn).dur = s.dur := rfl
@[simp] theorem State.takeOutsideTurn_freq (s : State) : (s.takeOutsideTurn).freq = s.freq := rfl
@[simp] theorem State.takeOutsideTurn_sample (s : State) : (s.takeOutsideTurn).sample = s.sample := rfl
@[simp] theorem State.takeOutsideTurn_pcm (s : State) : (s.takeOutsideTurn).pcm = s.pcm := rfl
@[simp] theorem State.takeOutsideTurn_outlen (s : State) : (s.takeOutsideTurn).outlen = s.outlen := rfl
@[simp] theorem State.takeOutsideTurn_nseqCap (s : State) : (s.takeOutsideTurn).nseqCap = s.nseqCap := rfl
@[simp] theorem State.takeOutsideTurn_pcmCap (s : State) : (s.takeOutsideTurn).pcmCap = s.pcmCap := rfl
@[simp] theorem State.takeOutsideTurn_mem (s : State) : (s.takeOutsideTurn).mem = s.mem := rfl
@[simp] theorem State.takeOutsideTurn_eng (s : State) : (s.takeOutsideTurn).eng = s.eng := rfl
@[simp] theorem State.takeOutsideTurn_pending (s : State) : (s.takeOutsideTurn).pending = s.pending.tail := rfl
@[simp] theorem State.takeOutsideTurn_gaps (s : State) : (s.takeOutsideTurn).gaps = if s.status.busy then (s.gaps.headD 0 - 1) :: s.gaps.tail else s.gaps := rfl
@[simp] theorem State.takeOutsideTurn_readLog (s : State) : (s.takeOutsideTurn).readLog = s.readLog := rfl
@[simp] theorem State.takeOutsideTurn_freeCount (s : State) : (s.takeOutsideTurn).freeCount = s.freeCount := rfl
@[simp] theorem State.takeOutsideTurn_epoch (s : State) : (s.takeOutsideTurn).epoch = s.epoch := rfl

/-! ### The status flags -/

@[simp] theorem Status.accepted_busy (st : Status) : (st.accepted).busy = true := rfl
@[simp] theorem Status.accepted_done (st : Status) : (st.accepted).done = false := rfl
@[simp] theorem Status.accepted_wbusy (st : Status) : (st.accepted).wbusy = st.wbusy := rfl
@[simp] theorem Status.accepted_axv (st : Status) : (st.accepted).axv = st.axv := rfl
@[simp] theorem Status.accepted_ecode (st : Status) : (st.accepted).ecode = 0#4 := rfl
@[simp] theorem Status.completed_busy (st : Status) (d : Bool) (c : BitVec 4) : (st.completed d c).busy = false := rfl
@[simp] theorem Status.completed_done (st : Status) (d : Bool) (c : BitVec 4) : (st.completed d c).done = d := rfl
@[simp] theorem Status.completed_wbusy (st : Status) (d : Bool) (c : BitVec 4) : (st.completed d c).wbusy = st.wbusy := rfl
@[simp] theorem Status.completed_axv (st : Status) (d : Bool) (c : BitVec 4) : (st.completed d c).axv = st.axv := rfl
@[simp] theorem Status.completed_ecode (st : Status) (d : Bool) (c : BitVec 4) : (st.completed d c).ecode = c := rfl

/-! ### The two depths -/

@[simp] theorem State.ignoreWrite_nseqDepth (s : State) : (s.ignoreWrite).nseqDepth = s.nseqDepth := rfl
@[simp] theorem State.ignoreWrite_pcmDepth (s : State) : (s.ignoreWrite).pcmDepth = s.pcmDepth := rfl
@[simp] theorem State.accept_nseqDepth (s : State) (w : Word) : (s.accept w).nseqDepth = s.nseqDepth := rfl
@[simp] theorem State.accept_pcmDepth (s : State) (w : Word) : (s.accept w).pcmDepth = s.pcmDepth := rfl
@[simp] theorem State.complete_nseqDepth (s : State) : (s.complete).nseqDepth = s.nseqDepth := rfl
@[simp] theorem State.complete_pcmDepth (s : State) : (s.complete).pcmDepth = s.pcmDepth := rfl
@[simp] theorem State.completeClear_nseqDepth (s : State) : (s.completeClear).nseqDepth = s.nseqDepth := rfl
@[simp] theorem State.completeClear_pcmDepth (s : State) : (s.completeClear).pcmDepth = s.pcmDepth := rfl
@[simp] theorem State.raise_nseqDepth (s : State) (e : BlockError) (info : Word) : (s.raise e info).nseqDepth = s.nseqDepth := rfl
@[simp] theorem State.raise_pcmDepth (s : State) (e : BlockError) (info : Word) : (s.raise e info).pcmDepth = s.pcmDepth := rfl
@[simp] theorem State.setAxis_nseqDepth (s : State) (d : F64) (n : Nat) : (s.setAxis d n).nseqDepth = s.nseqDepth := rfl
@[simp] theorem State.setAxis_pcmDepth (s : State) (d : F64) (n : Nat) : (s.setAxis d n).pcmDepth = s.pcmDepth := rfl
@[simp] theorem State.raiseTempo_nseqDepth (s : State) : (s.raiseTempo).nseqDepth = s.nseqDepth := rfl
@[simp] theorem State.raiseTempo_pcmDepth (s : State) : (s.raiseTempo).pcmDepth = s.pcmDepth := rfl
@[simp] theorem State.beginSamples_nseqDepth (s : State) (n : Nat) : (s.beginSamples n).nseqDepth = s.nseqDepth := rfl
@[simp] theorem State.beginSamples_pcmDepth (s : State) (n : Nat) : (s.beginSamples n).pcmDepth = s.pcmDepth := rfl
@[simp] theorem State.finishSynth_nseqDepth (s : State) : (s.finishSynth).nseqDepth = s.nseqDepth := rfl
@[simp] theorem State.finishSynth_pcmDepth (s : State) : (s.finishSynth).pcmDepth = s.pcmDepth := rfl
@[simp] theorem State.writeByte_nseqDepth (s : State) (a : Nat) (b : Byte) : (s.writeByte a b).nseqDepth = s.nseqDepth := rfl
@[simp] theorem State.writeByte_pcmDepth (s : State) (a : Nat) (b : Byte) : (s.writeByte a b).pcmDepth = s.pcmDepth := rfl
@[simp] theorem State.writePcm_nseqDepth (s : State) (n : Nat) (v : BitVec 16) : (s.writePcm n v).nseqDepth = s.nseqDepth := rfl
@[simp] theorem State.writePcm_pcmDepth (s : State) (n : Nat) (v : BitVec 16) : (s.writePcm n v).pcmDepth = s.pcmDepth := rfl
@[simp] theorem State.takeEngineTurn_nseqDepth (s : State) : (s.takeEngineTurn).nseqDepth = s.nseqDepth := rfl
@[simp] theorem State.takeEngineTurn_pcmDepth (s : State) : (s.takeEngineTurn).pcmDepth = s.pcmDepth := rfl
@[simp] theorem State.takeOutsideTurn_nseqDepth (s : State) : (s.takeOutsideTurn).nseqDepth = s.nseqDepth := rfl
@[simp] theorem State.takeOutsideTurn_pcmDepth (s : State) : (s.takeOutsideTurn).pcmDepth = s.pcmDepth := rfl

end Sys2Proof.Machine
end

