-- ==== Sys2Proof/Laws/Memory.lean ====
section
/-! SUPPORT. The laws of memory: a read after a write, at the same address and at another one, and that
every memory operation keeps the canonical form. -/

namespace Sys2Proof.Machine

/-! ### The list -/

theorem Memory.load?_store_same (m : Memory) (a : Nat) (b : Byte) :
    Memory.load? (Memory.store m a b) a = some b := by
  induction m with
  | nil => simp [Memory.store, Memory.load?]
  | cons c rest ih =>
    obtain ⟨x, v⟩ := c
    by_cases h : a < x
    · simp [Memory.store, Memory.load?, h]
    · by_cases h' : a = x
      · simp [Memory.store, Memory.load?, h']
      · simp [Memory.store, Memory.load?, h, h', ih]

theorem Memory.load?_store_other (m : Memory) {a c : Nat} (b : Byte) (h : c ≠ a) :
    Memory.load? (Memory.store m a b) c = Memory.load? m c := by
  induction m with
  | nil => simp [Memory.store, Memory.load?, h]
  | cons p rest ih =>
    obtain ⟨x, v⟩ := p
    by_cases h1 : a < x
    · simp [Memory.store, Memory.load?, h1, h]
    · by_cases h2 : a = x
      · subst h2; simp [Memory.store, Memory.load?, h]
      · simp [Memory.store, Memory.load?, h1, h2, ih]

theorem Memory.risesAbove_store (m : Memory) (bound a : Nat) (b : Byte) (ha : bound < a)
    (h : Memory.risesAbove bound m = true) : Memory.risesAbove bound (Memory.store m a b) = true := by
  induction m generalizing bound with
  | nil => simp [Memory.store, Memory.risesAbove, Memory.unlisted, ha]
  | cons p rest ih =>
    obtain ⟨x, v⟩ := p
    simp only [Memory.risesAbove, Memory.unlisted, Bool.and_eq_true, decide_eq_true_eq] at h
    obtain ⟨⟨hx, -⟩, hrest⟩ := h
    by_cases h1 : a < x
    · simp [Memory.store, Memory.risesAbove, Memory.unlisted, h1, ha, hrest]
    · by_cases h2 : a = x
      · subst h2; simp [Memory.store, Memory.risesAbove, Memory.unlisted, ha, hrest]
      · simp [Memory.store, Memory.risesAbove, Memory.unlisted, h1, h2, hx, ih x (by omega) hrest]

/-- A write at an address other than 0 keeps the canonical form. -/
theorem Memory.wf_store (m : Memory) {a : Nat} (b : Byte) (ha : 0 < a) (h : Memory.wf m = true) :
    Memory.wf (Memory.store m a b) = true := Memory.risesAbove_store m 0 a b ha h

theorem Memory.mem_store {m : Memory} {a : Nat} {b : Byte} {c : Host.Cell} (h : c ∈ Memory.store m a b) :
    c = (a, b) ∨ c ∈ m := by
  induction m with
  | nil => simpa [Memory.store] using h
  | cons p rest ih =>
    obtain ⟨x, v⟩ := p
    by_cases h1 : a < x
    · simpa [Memory.store, h1] using h
    · by_cases h2 : a = x
      · rcases (by simpa [Memory.store, h1, h2] using h : c = (x, b) ∨ c ∈ rest) with h | h
        · exact .inl (h2 ▸ h)
        · exact .inr (List.mem_cons_of_mem _ h)
      · rcases (by simpa [Memory.store, h1, h2] using h : c = (x, v) ∨ c ∈ Memory.store rest a b) with h | h
        · exact .inr (h ▸ List.mem_cons_self)
        · exact (ih h).imp id (List.mem_cons_of_mem _)

/-! ### The windows -/

theorem inNseq_iff (s : State) (a : Nat) : s.inNseq a = true ↔ 0x1000 ≤ a ∧ a < 0x1000 + s.nseqCap.toNat :=
  decide_eq_true_iff

theorem inPcm_iff (s : State) (a : Nat) :
    s.inPcm a = true ↔ 0x01000000 ≤ a ∧ a < 0x01000000 + 2 * s.pcmCap.toNat :=
  decide_eq_true_iff

/-! ### Bytes -/

@[simp] theorem readByte_writeByte_same (s : State) (a : Nat) (b : Byte) :
    (s.writeByte a b).readByte a = b := by
  simp [State.readByte, State.writeByte, Memory.load?_store_same]

theorem readByte_writeByte_other (s : State) {a c : Nat} (b : Byte) (h : c ≠ a) :
    (s.writeByte a b).readByte c = s.readByte c := by
  simp [State.readByte, State.writeByte, Memory.load?_store_other _ b h]

/-- A byte depends on the written bytes and the reset count alone. -/
theorem readByte_congr {s t : State} (hm : t.mem = s.mem) (he : t.epoch = s.epoch) (a : Nat) :
    t.readByte a = s.readByte a := by
  simp [State.readByte, hm, he]

/-! ### PCM samples (R57(a)) -/

/-- A sample write leaves every byte but its two alone. -/
theorem readByte_writePcm_other (s : State) {n a : Nat} (v : BitVec 16) (h : a ≠ pcmAddr n)
    (h' : a ≠ pcmAddr n + 1) : (s.writePcm n v).readByte a = s.readByte a := by
  rw [State.writePcm, readByte_writeByte_other _ _ h', readByte_writeByte_other _ _ h]

/-- The sample written is the sample read. -/
theorem pcmSample_writePcm_same (s : State) (n : Nat) (v : BitVec 16) : (s.writePcm n v).pcmSample n = v := by
  have h : (s.writePcm n v).readByte (pcmAddr n) = v.extractLsb' 0 8 := by
    rw [State.writePcm, readByte_writeByte_other _ _ (by omega), readByte_writeByte_same]
  have h' : (s.writePcm n v).readByte (pcmAddr n + 1) = v.extractLsb' 8 8 := by
    rw [State.writePcm, readByte_writeByte_same]
  rw [State.pcmSample, h, h']
  apply BitVec.eq_of_getLsbD_eq
  intro i hi
  simp only [BitVec.getLsbD_append, BitVec.getLsbD_extractLsb']
  by_cases h8 : i < 8
  · simp [h8]
  · simp [h8, show i - 8 < 8 by omega, show 8 + (i - 8) = i by omega]

/-- Another sample is not touched. -/
theorem pcmSample_writePcm_other (s : State) {n k : Nat} (v : BitVec 16) (h : k ≠ n) :
    (s.writePcm n v).pcmSample k = s.pcmSample k := by
  simp only [State.pcmSample]
  rw [readByte_writePcm_other _ _ (by simp only [pcmAddr]; omega) (by simp only [pcmAddr]; omega),
    readByte_writePcm_other _ _ (by simp only [pcmAddr]; omega) (by simp only [pcmAddr]; omega)]

/-- A sample write leaves every note code alone, for notes inside the 4 KiB window (R50). -/
theorem noteCode_writePcm (s : State) {n j : Nat} (v : BitVec 16) (h : j < 4096) :
    (s.writePcm n v).noteCode j = s.noteCode j := by
  simp only [State.noteCode]
  rw [readByte_writePcm_other] <;> simp only [nseqBase, pcmAddr, pcmBase] <;> omega

/-! ### The canonical form is kept -/

theorem wf_writeByte (s : State) {a : Nat} (b : Byte) (ha : 0 < a) (h : Memory.wf s.mem = true) :
    Memory.wf (s.writeByte a b).mem = true := Memory.wf_store _ _ ha h

theorem wf_writePcm (s : State) (n : Nat) (v : BitVec 16) (h : Memory.wf s.mem = true) :
    Memory.wf (s.writePcm n v).mem = true :=
  wf_writeByte _ _ (by omega) (wf_writeByte _ _ (by simp only [pcmAddr, pcmBase]; omega) h)

theorem wf_writeNseqByte (s : State) (a : Nat) (b : Byte) (h : Memory.wf s.mem = true) :
    Memory.wf (s.writeNseqByte a b).mem = true := by
  unfold State.writeNseqByte
  split
  · rename_i hin
    exact wf_writeByte _ _ (by have := (inNseq_iff s a).1 hin; omega) h
  · exact h

theorem wf_writeNseqWord (s : State) (a : Nat) (data : Word) (h : Memory.wf s.mem = true) :
    Memory.wf (s.writeNseqWord a data).mem = true :=
  wf_writeNseqByte _ _ _ (wf_writeNseqByte _ _ _ (wf_writeNseqByte _ _ _ (wf_writeNseqByte _ _ _ h)))

/-- Reset's memory lists nothing, so it has the form (R221). -/
theorem wf_reset : Memory.wf State.reset.mem = true := rfl

end Sys2Proof.Machine
end

