-- ==== Sys2Proof/Laws/Commands.lean ====
section
/-! SUPPORT. For each operation the commands share, one lemma that says once everything it can do. -/

namespace Sys2Proof.Machine

/-! ### The pitch ROM (R100, R101) -/

theorem frequencyOf_eq_none (c : Nat) : frequencyOf c = none ↔ 12 < c := by
  unfold frequencyOf
  split
  · simp [*]
  · have : c < promTable.length := by simp [promTable]; omega
    simp [List.getElem?_eq_getElem this]; omega

theorem frequencyOf_of_le {c : Nat} (h : c ≤ 12) : frequencyOf c = promTable[c]? := by
  simp [frequencyOf, Nat.not_lt.2 h]

theorem frequencyOf_isSome {c : Nat} (h : c ≤ 12) : ∃ f, frequencyOf c = some f := by
  cases hf : frequencyOf c with
  | none => exact absurd ((frequencyOf_eq_none c).1 hf) (by omega)
  | some f => exact ⟨f, rfl⟩

/-! ### The time axis (R110) -/

/-- A valid axis: its count is between 1 and 2^32 - 1, and both numbers are those of R110. -/
theorem axis_some {b d : F64} {n : Nat} (h : axis b = some (d, n)) :
    isNaN b = false ∧ le64 b zero64 = false ∧ d = div64 beatSeconds64 b ∧
      isFinite (mul64 sampleRate64 d) = true ∧ rte (mul64 sampleRate64 d) = (n : Int) ∧
      1 ≤ n ∧ n ≤ 4294967295 := by
  unfold axis at h
  split at h
  · cases h
  · rename_i hb
    simp only at h
    split at h
    · cases h
    · rename_i hy
      split at h
      · cases h
      · rename_i hn
        simp only [Bool.not_eq_true, Bool.or_eq_false_iff] at hb
        simp only [Bool.not_eq_true, Bool.not_eq_false'] at hy
        obtain ⟨rfl, rfl⟩ := by simpa using h
        exact ⟨hb.1, hb.2, rfl, hy, by omega, by omega, by omega⟩

/-- The count of a valid axis fits `NSAMP`. -/
theorem nsamp_setAxis_toNat {s : State} {b d : F64} {n : Nat} (h : axis b = some (d, n)) :
    (s.setAxis d n).nsamp.toNat = n := by
  have := axis_some h
  simp only [State.setAxis_nsamp, BitVec.toNat_ofNat]; omega

/-! ### The OSC commands (R135) -/

/-- What `osc_cmd` can do: the five errors in their order, or the sample. -/
theorem oscCommand_cases (sh : Option Wave) (note : Nat) (s : State) :
    (12 < note ∧ oscCommand sh note s = s.raise .invalidNoteSymbol (noteInfo note 0)) ∨
    (note ≤ 12 ∧ s.status.axv = false ∧ oscCommand sh note s = s.raise .axisNotReady 0#32) ∨
    (note ≤ 12 ∧ s.status.axv = true ∧ s.nsamp.toNat ≤ s.kidx.toNat ∧
      oscCommand sh note s = s.raise .indexRange 0#32) ∨
    (note ≤ 12 ∧ s.status.axv = true ∧ s.kidx.toNat < s.nsamp.toNat ∧ sh = none ∧
      oscCommand sh note s = s.raise .invalidWaveformKind 0#32) ∨
    (∃ w, note ≤ 12 ∧ s.status.axv = true ∧ s.kidx.toNat < s.nsamp.toNat ∧ sh = some w ∧
      shapeParamOk w s = false ∧ oscCommand sh note s = s.raise .invalidShapeParameter 0#32) ∨
    (∃ w f, note ≤ 12 ∧ s.status.axv = true ∧ s.kidx.toNat < s.nsamp.toNat ∧ sh = some w ∧
      shapeParamOk w s = true ∧ frequencyOf note = some f ∧
      oscCommand sh note s =
        ({ s with freq := f, sample := oscSample w note f (timeValue s.kidx.toNat s.dur s.nsamp.toNat) s } : State).complete) := by
  unfold oscCommand
  cases hf : frequencyOf note with
  | none => exact .inl ⟨(frequencyOf_eq_none note).1 hf, rfl⟩
  | some f =>
    have hn : note ≤ 12 := by
      by_contra hc; rw [(frequencyOf_eq_none note).2 (by omega)] at hf; cases hf
    right
    by_cases ha : s.status.axv = false
    · exact .inl ⟨hn, ha, by simp [ha]⟩
    · have ha' : s.status.axv = true := by simpa using ha
      right
      by_cases hk : s.nsamp.toNat ≤ s.kidx.toNat
      · exact .inl ⟨hn, ha', hk, by simp [ha', hk]⟩
      · right
        have hk' : s.kidx.toNat < s.nsamp.toNat := by omega
        cases sh with
        | none => exact .inl ⟨hn, ha', hk', rfl, by simp [ha', hk]⟩
        | some w =>
          right
          by_cases hp : shapeParamOk w s = false
          · exact .inl ⟨w, hn, ha', hk', rfl, hp, by simp [ha', hk, hp]⟩
          · have hp' : shapeParamOk w s = true := by simpa using hp
            exact .inr ⟨w, f, hn, ha', hk', rfl, hp', rfl, by simp [ha', hk, hp']⟩

/-! ### The first step of a SYNTH (R160) -/

theorem firstBadNote_eq_none (s : State) (nc : Nat) :
    firstBadNote s nc = none ↔ ∀ j, j < nc → s.noteCode j ≤ 12 := by
  simp [firstBadNote, List.find?_eq_none]

/-- The note found is below the count, is not a note, and every note before it is one. -/
theorem firstBadNote_eq_some {s : State} {nc j : Nat} (h : firstBadNote s nc = some j) :
    j < nc ∧ 12 < s.noteCode j ∧ ∀ i, i < j → s.noteCode i ≤ 12 := by
  rw [firstBadNote, List.find?_range_eq_some] at h
  obtain ⟨h1, h2, h3⟩ := h
  refine ⟨by simpa using h2, by simpa using h1, fun i hi => ?_⟩
  simpa using h3 i hi

/-- What `synth_start` can do: the six errors in their order, the empty output, or the first sample's
set-up. `s.outlen` is 0 in every case but the empty one, where `finish` writes 0 again. -/
theorem synthStart_cases (sh : Option Wave) (s : State) :
    let z : State := { s with outlen := 0#32 }
    (s.nseqDepth < s.ncount.toNat ∧ synthStart sh s = z.raise .capacityExceeded 0#32) ∨
    (∃ j, s.ncount.toNat ≤ s.nseqDepth ∧ firstBadNote s s.ncount.toNat = some j ∧
      synthStart sh s = z.raise .invalidNoteSymbol (noteInfo (s.noteCode j) j)) ∨
    (s.ncount.toNat ≤ s.nseqDepth ∧ firstBadNote s s.ncount.toNat = none ∧ axis s.bpm = none ∧
      synthStart sh s = z.raiseTempo) ∨
    (∃ d n, s.ncount.toNat ≤ s.nseqDepth ∧ firstBadNote s s.ncount.toNat = none ∧ axis s.bpm = some (d, n) ∧
      ((sh = none ∧ synthStart sh s = (z.setAxis d n).raise .invalidWaveformKind 0#32) ∨
       (∃ w, sh = some w ∧ shapeParamOk w s = false ∧
          synthStart sh s = (z.setAxis d n).raise .invalidShapeParameter 0#32) ∨
       (∃ w, sh = some w ∧ shapeParamOk w s = true ∧ s.pcmDepth < s.ncount.toNat * n ∧
          synthStart sh s = (z.setAxis d n).raise .capacityExceeded 0#32) ∨
       (∃ w, sh = some w ∧ shapeParamOk w s = true ∧ s.ncount.toNat * n ≤ s.pcmDepth ∧
          s.ncount.toNat = 0 ∧ synthStart sh s = ((z.setAxis d n).beginSamples n).finishSynth) ∨
       (∃ w, sh = some w ∧ shapeParamOk w s = true ∧ s.ncount.toNat * n ≤ s.pcmDepth ∧
          0 < s.ncount.toNat ∧ synthStart sh s = (z.setAxis d n).beginSamples n))) := by
  intro z
  have hbad : firstBadNote z s.ncount.toNat = firstBadNote s s.ncount.toNat := rfl
  have hdep : z.nseqDepth = s.nseqDepth := rfl
  have heq : synthStart sh s =
      if z.nseqDepth < s.ncount.toNat then z.raise .capacityExceeded 0#32
      else
        match firstBadNote z s.ncount.toNat with
        | some j => z.raise .invalidNoteSymbol (noteInfo (z.noteCode j) j)
        | none =>
          match axis s.bpm with
          | none => z.raiseTempo
          | some (d, n) =>
            match sh with
            | none => (z.setAxis d n).raise .invalidWaveformKind 0#32
            | some w =>
              if shapeParamOk w (z.setAxis d n) = false then (z.setAxis d n).raise .invalidShapeParameter 0#32
              else if (z.setAxis d n).pcmDepth < s.ncount.toNat * n then (z.setAxis d n).raise .capacityExceeded 0#32
              else if s.ncount.toNat = 0 then ((z.setAxis d n).beginSamples n).finishSynth
              else (z.setAxis d n).beginSamples n := rfl
  rw [heq, hbad, hdep]
  by_cases h1 : s.nseqDepth < s.ncount.toNat
  · exact .inl ⟨h1, by rw [if_pos h1]⟩
  right
  rw [if_neg h1]
  have h1' : s.ncount.toNat ≤ s.nseqDepth := Nat.not_lt.1 h1
  cases hb : firstBadNote s s.ncount.toNat with
  | some j => exact .inl ⟨j, h1', rfl, rfl⟩
  | none =>
    right
    cases ha : axis s.bpm with
    | none => exact .inl ⟨h1', rfl, rfl, rfl⟩
    | some p =>
      obtain ⟨d, n⟩ := p
      refine .inr ⟨d, n, h1', rfl, rfl, ?_⟩
      cases sh with
      | none => exact .inl ⟨rfl, rfl⟩
      | some w =>
        right
        have hp : shapeParamOk w (z.setAxis d n) = shapeParamOk w s := by cases w <;> rfl
        have hc : (z.setAxis d n).pcmDepth = s.pcmDepth := rfl
        simp only [hp, hc]
        by_cases h2 : shapeParamOk w s = false
        · exact .inl ⟨w, rfl, h2, by rw [if_pos h2]⟩
        · have h2' : shapeParamOk w s = true := by simpa using h2
          right
          rw [if_neg h2]
          by_cases h3 : s.pcmDepth < s.ncount.toNat * n
          · exact .inl ⟨w, rfl, h2', h3, by rw [if_pos h3]⟩
          · right
            rw [if_neg h3]
            by_cases h4 : s.ncount.toNat = 0
            · exact .inl ⟨w, rfl, h2', Nat.not_lt.1 h3, h4, by rw [if_pos h4]⟩
            · exact .inr ⟨w, rfl, h2', Nat.not_lt.1 h3, Nat.pos_of_ne_zero h4, by rw [if_neg h4]⟩

/-! ### The sample step of a SYNTH (R161) -/

/-- What moving the pointers can do: the next sample, the next note, or the end. -/
theorem advanceSample_cases (s : State) :
    (s.eng.kp + 1 < s.eng.n ∧ s.advanceSample = { s with eng := { s.eng with kp := s.eng.kp + 1 } }) ∨
    (s.eng.n ≤ s.eng.kp + 1 ∧ s.eng.np + 1 ≠ s.ncount.toNat ∧
      s.advanceSample = { s with eng := { s.eng with kp := 0, np := s.eng.np + 1 } }) ∨
    (s.eng.n ≤ s.eng.kp + 1 ∧ s.eng.np + 1 = s.ncount.toNat ∧
      s.advanceSample = ({ s with eng := { s.eng with kp := 0, np := s.eng.np + 1 } } : State).finishSynth) := by
  unfold State.advanceSample
  by_cases h1 : s.eng.kp + 1 < s.eng.n
  · exact .inl ⟨h1, by rw [if_pos h1]⟩
  · right
    rw [if_neg h1]
    by_cases h2 : s.eng.np + 1 = s.ncount.toNat
    · exact .inr ⟨Nat.not_lt.1 h1, h2, by simp [h2]⟩
    · exact .inl ⟨Nat.not_lt.1 h1, h2, by simp [h2]⟩

/-- Moving the pointers leaves memory alone. -/
@[simp] theorem advanceSample_mem (s : State) : s.advanceSample.mem = s.mem := by
  rcases advanceSample_cases s with ⟨-, h⟩ | ⟨-, -, h⟩ | ⟨-, -, h⟩ <;> simp [h]

@[simp] theorem advanceSample_epoch (s : State) : s.advanceSample.epoch = s.epoch := by
  rcases advanceSample_cases s with ⟨-, h⟩ | ⟨-, -, h⟩ | ⟨-, -, h⟩ <;> simp [h]

/-- If a sample step goes on, the note and the sample exist, and the sample is written. -/
theorem synthStep_next {w : Wave} {s t : State} (h : synthStep w s = .next t) :
    ∃ f, s.eng.np < s.nseqDepth ∧ frequencyOf (s.noteCode s.eng.np) = some f ∧
      s.eng.np * s.eng.n + s.eng.kp < s.pcmDepth ∧
      t = (s.writePcm (s.eng.np * s.eng.n + s.eng.kp)
        (synthValue w (s.noteCode s.eng.np) f s.eng.kp s)).advanceSample := by
  unfold synthStep at h
  simp only at h
  split at h
  · cases h
  · rename_i h1
    split at h
    · cases h
    · rename_i f hf
      split at h
      · cases h
      · rename_i h2
        injection h with h
        exact ⟨f, Nat.not_le.1 h1, hf, Nat.not_le.1 h2, h.symm⟩

/-- Where the note and the sample exist, a sample step goes on. -/
theorem synthStep_of_lt {w : Wave} {s : State} {f : F64} (h1 : s.eng.np < s.nseqDepth)
    (hf : frequencyOf (s.noteCode s.eng.np) = some f) (h2 : s.eng.np * s.eng.n + s.eng.kp < s.pcmDepth) :
    synthStep w s = .next (s.writePcm (s.eng.np * s.eng.n + s.eng.kp)
      (synthValue w (s.noteCode s.eng.np) f s.eng.kp s)).advanceSample := by
  simp [synthStep, Nat.not_le.2 h1, hf, Nat.not_le.2 h2]

/-- A sample step never refuses. -/
theorem synthStep_ne_refused (w : Wave) (s : State) (r : Refusal) : synthStep w s ≠ .refused r := by
  unfold synthStep
  simp only
  split
  · nofun
  · split
    · nofun
    · split <;> nofun

end Sys2Proof.Machine
end

