-- ==== Sys2Proof/Laws/Bus.lean ====
section
/-! SUPPORT. What the host interface, the engine's fetch and one step can do, each said once. -/

namespace Sys2Proof.Machine

/-! ### Commands -/

/-- The decoder reads NOP from the word 0 alone (R85, R180). -/
theorem decode_eq_nop {w : Word} : decode w = .ok .nop ↔ w = 0x00000000#32 := by
  constructor
  · intro h
    by_contra hw
    unfold decode at h
    rw [if_neg hw] at h
    have hp : ∀ i, i ≠ Instr.nop → decodePlain w i ≠ .ok .nop := by
      intro i hi h
      unfold decodePlain at h
      split at h
      · cases h
      · split at h
        · cases h
        · injection h with h; exact hi h
    split at h
    · cases h
    · split at h
      · split at h <;> cases h
      · exact hp _ (by decide) h
      · unfold decodeOsc at h; split at h <;> cases h
      · exact hp _ (by decide) h
      · split at h
        · cases h
        · unfold decodeSynth at h; split at h <;> cases h
      · exact hp _ (by decide) h
      · cases h
  · rintro rfl; rfl

/-- What a host write to `CMD` can do (R90, R180). -/
theorem issueCommand_cases (w : Word) (s : State) :
    (s.status.busy = true ∧ issueCommand w s = .next s.ignoreWrite) ∨
    (s.status.busy = false ∧ w = 0x00000000#32 ∧ issueCommand w s = .next s) ∨
    (s.status.busy = false ∧ w ≠ 0x00000000#32 ∧ issueCommand w s = .next (s.accept w)) := by
  unfold issueCommand
  cases hb : s.status.busy <;> by_cases hw : w = 0x00000000#32 <;> simp [hw, hb, exec, execNop]

/-- An engine step runs the decoded command, or raises IllegalCommand (R91, R86). -/
theorem engineStep_ok {s : State} {i : Instr} (h : decode s.eng.cw = .ok i) : engineStep s = exec i s := by
  simp [engineStep, h]

theorem engineStep_error {s : State} {e : IllegalWord} (h : decode s.eng.cw = .error e) :
    engineStep s = .next (s.raise .illegalCommand 0x00000000#32) := by
  simp [engineStep, h]

/-- Everything a meaning can do when it goes on: the thirteen ways, by instruction. -/
theorem exec_cases {i : Instr} {s t : State} (h : exec i s = .next t) :
    (i = .nop ∧ s.status.busy = false ∧ t = s) ∨
    (i = .nop ∧ s.status.busy = true ∧ t = s.ignoreWrite) ∨
    (i = .clear ∧ t = ({ s with status := { s.status with wbusy := false } } : State).completeClear) ∨
    (i = .pcmq ∧ t = ({ s with pcm := (s16 (quant s.sample)).setWidth 32 } : State).complete) ∨
    (∃ c f, i = .plookup c ∧ frequencyOf c = some f ∧ t = ({ s with freq := f } : State).complete) ∨
    (∃ c, i = .plookup c ∧ 12 < c ∧ t = s.raise .invalidNoteSymbol (noteInfo c 0)) ∨
    (i = .tquant ∧ axis s.bpm = none ∧ t = s.raiseTempo) ∨
    (∃ d n, i = .tquant ∧ axis s.bpm = some (d, n) ∧ t = (s.setAxis d n).complete) ∨
    (∃ w c, i = oscInstr w c ∧ t = oscCommand (some w) c s) ∨
    (∃ c, i = .oscSh3 c ∧ t = oscCommand none c s) ∨
    (∃ w, i = synthInstr w ∧ s.eng.phase = .start ∧ t = synthStart (some w) s) ∨
    (i = .synthSh3 ∧ t = synthStart none s) ∨
    (∃ w, i = synthInstr w ∧ s.eng.phase = .generate ∧ synthStep w s = .next t) := by
  have hs : ∀ w, i = synthInstr w → synthCommand w s = .next t →
      (∃ w, i = synthInstr w ∧ s.eng.phase = .start ∧ t = synthStart (some w) s) ∨
      (i = .synthSh3 ∧ t = synthStart none s) ∨
      (∃ w, i = synthInstr w ∧ s.eng.phase = .generate ∧ synthStep w s = .next t) := by
    intro w hi h
    unfold synthCommand at h
    split at h
    · injection h with h; exact .inl ⟨w, hi, ‹_›, h.symm⟩
    · exact .inr (.inr ⟨w, hi, ‹_›, h⟩)
  iterate 7 rw [← or_assoc]
  cases i with
  | nop =>
    simp only [exec, execNop] at h
    split at h <;> cases h <;> simp_all
  | plookup c =>
    simp only [exec, execPlookup] at h
    split at h
    · rename_i hf; cases h; simp [(frequencyOf_eq_none c).1 hf]
    · rename_i f hf
      cases h
      exact .inl (.inl (.inl (.inl (.inr ⟨c, f, rfl, hf, rfl⟩))))
  | tquant =>
    simp only [exec, execTquant] at h
    split at h <;> cases h <;> simp [*]
  | oscSin c => cases h; exact .inr (.inl ⟨.sine, c, rfl, rfl⟩)
  | oscPul c => cases h; exact .inr (.inl ⟨.pulse, c, rfl, rfl⟩)
  | oscSaw c => cases h; exact .inr (.inl ⟨.saw, c, rfl, rfl⟩)
  | oscSh3 c => cases h; exact .inr (.inr (.inl ⟨c, rfl, rfl⟩))
  | pcmq => cases h; simp
  | synthSin => exact .inr (.inr (.inr (hs .sine rfl h)))
  | synthPul => exact .inr (.inr (.inr (hs .pulse rfl h)))
  | synthSaw => exact .inr (.inr (.inr (hs .saw rfl h)))
  | synthSh3 => cases h; exact .inr (.inr (.inr (.inr (.inl ⟨rfl, rfl⟩))))
  | clear => cases h; simp

/-- No meaning refuses. -/
theorem exec_ne_refused (i : Instr) (s : State) (r : Refusal) : exec i s ≠ .refused r := by
  have hs : ∀ w, synthCommand w s ≠ .refused r := by
    intro w
    unfold synthCommand
    split
    · nofun
    · exact synthStep_ne_refused w s r
  cases i with
  | nop => simp only [exec, execNop]; split <;> nofun
  | plookup note => simp only [exec, execPlookup]; split <;> nofun
  | tquant => simp only [exec, execTquant]; split <;> nofun
  | oscSin note => nofun
  | oscPul note => nofun
  | oscSaw note => nofun
  | oscSh3 note => nofun
  | pcmq => nofun
  | synthSin => exact hs .sine
  | synthPul => exact hs .pulse
  | synthSaw => exact hs .saw
  | synthSh3 => nofun
  | clear => nofun

/-! ### Host accesses -/

/-- A host write goes on, and this is all it can do: a command word issued, nothing, `WBUSY`, a register,
or a word of `NSEQ` (R28, R54). -/
theorem busWrite_cases (a : Nat) (data : Word) (s : State) :
    (locate s a = .reg .cmd ∧ busWrite a data s = issueCommand data s) ∨
    ((locate s a).writable = false ∧ busWrite a data s = .next s) ∨
    ((locate s a).writable = true ∧ locate s a ≠ .reg .cmd ∧ s.status.busy = true ∧
      busWrite a data s = .next s.ignoreWrite) ∨
    (∃ r, locate s a = .reg r ∧ r.writable = true ∧ r ≠ .cmd ∧ s.status.busy = false ∧
      busWrite a data s = .next (writeReg r data s)) ∨
    (locate s a = .nseqWord ∧ s.status.busy = false ∧ busWrite a data s = .next (s.writeNseqWord a data)) := by
  unfold busWrite
  cases hl : locate s a with
  | reg r => cases hb : s.status.busy <;> cases r <;> simp [Location.writable, Reg.writable]
  | nseqWord => cases hb : s.status.busy <;> simp [Location.writable]
  | pcmWord => simp [Location.writable]
  | unmapped => simp [Location.writable]

/-- A host write never stops the machine. -/
theorem busWrite_next (a : Nat) (data : Word) (s : State) : ∃ t, busWrite a data s = .next t := by
  rcases busWrite_cases a data s with ⟨-, h⟩ | ⟨-, h⟩ | ⟨-, -, -, h⟩ | ⟨r, -, -, -, -, h⟩ | ⟨-, -, h⟩
  · rcases issueCommand_cases data s with ⟨-, h'⟩ | ⟨-, -, h'⟩ | ⟨-, -, h'⟩ <;> exact ⟨_, h.trans h'⟩
  all_goals exact ⟨_, h⟩

/-- A host read changes the record of reads and the count of open values, and nothing else (R54, R232). -/
theorem busRead_frame (a : Nat) (s : State) :
    ∃ l c, busRead a s = { s with readLog := l, freeCount := c } := by
  unfold busRead
  split
  · exact ⟨_, _, rfl⟩
  · exact ⟨_, s.freeCount, rfl⟩

/-- What an event from outside can do. -/
theorem busEvent_cases (ev : BusEvent) (s : State) :
    (ev.inContract = false ∧ ∃ r, busEvent ev s = .refused r) ∨
    (∃ a, ev = .read 4 a ∧ aligned a = true ∧ busEvent ev s = .next (busRead a.toNat s)) ∨
    (∃ a data, ev = .write 4 a data ∧ aligned a = true ∧ busEvent ev s = busWrite a.toNat data s) ∨
    (ev = .reset ∧ busEvent ev s = .next s.applyReset) := by
  cases ev with
  | read width a =>
    by_cases hw : width = 4
    · subst hw
      cases ha : aligned a
      · exact .inl ⟨by simp [BusEvent.inContract, ha], .misaligned, by simp [busEvent, ha]⟩
      · exact .inr (.inl ⟨a, rfl, ha, by simp [busEvent, ha]⟩)
    · exact .inl ⟨by simp [BusEvent.inContract, hw], .accessWidth, by simp [busEvent, hw]⟩
  | write width a data =>
    by_cases hw : width = 4
    · subst hw
      cases ha : aligned a
      · exact .inl ⟨by simp [BusEvent.inContract, ha], .misaligned, by simp [busEvent, ha]⟩
      · exact .inr (.inr (.inl ⟨a, data, rfl, ha, by simp [busEvent, ha]⟩))
    · exact .inl ⟨by simp [BusEvent.inContract, hw], .accessWidth, by simp [busEvent, hw]⟩
  | reset => exact .inr (.inr (.inr ⟨rfl, rfl⟩))
  | otherMaster => exact .inl ⟨rfl, .secondMaster, rfl⟩

/-- `s` with any other values in the four result registers that the first step of a SYNTH writes. -/
def State.withOtherAxis (s : State) (o n : Word) (d : F64) (axv : Bool) : State :=
  { s with outlen := o, nsamp := n, dur := d, status := { s.status with axv := axv } }

/-- While busy, no read shows the four registers. -/
theorem busyRead_withOtherAxis (s : State) (a : Nat) (v o n : Word) (d : F64) (axv : Bool) :
    busyRead (s.withOtherAxis o n d axv) a v = busyRead s a v := by
  have hl : locate (s.withOtherAxis o n d axv) a = locate s a := rfl
  unfold busyRead
  rw [hl]
  cases locate s a with
  | reg r => cases r <;> rfl
  | nseqWord => rfl
  | pcmWord => rfl
  | unmapped => rfl

/-- While busy, the outside cannot tell what `OUTLEN`, `NSAMP`, `DUR` and `AXV` hold: an event has the same
outcome, the same value read and the same effect whatever they are, and a reset gives the very same state.
So whether a SYNTH writes them in its first step (R160) or at its completion (spec/20_memory.md R61(d))
makes no difference (log 14). -/
theorem busEvent_withOtherAxis {s t : State} (hb : s.status.busy = true) (ev : BusEvent) (o n : Word) (d : F64)
    (axv : Bool) (h : busEvent ev s = .next t) :
    busEvent ev (s.withOtherAxis o n d axv) =
      .next (if ev = .reset then t else t.withOtherAxis o n d axv) := by
  have hb' : (s.withOtherAxis o n d axv).status.busy = true := hb
  rcases busEvent_cases ev s with ⟨-, r, e⟩ | ⟨a, rfl, ha, e⟩ | ⟨a, data, rfl, ha, e⟩ | ⟨rfl, e⟩ <;> rw [e] at h
  · cases h
  · cases h
    simpa [busEvent, ha, busRead, hb, State.withOtherAxis] using
      busyRead_withOtherAxis s a.toNat (Config.busyReadWord s.freeCount) o n d axv
  · have e' : busEvent (.write 4 a data) (s.withOtherAxis o n d axv) =
        busWrite a.toNat data (s.withOtherAxis o n d axv) := by simp [busEvent, ha]
    have hl : locate (s.withOtherAxis o n d axv) a.toNat = locate s a.toNat := rfl
    rw [e']
    unfold busWrite issueCommand at h ⊢
    rw [hl]
    simp only [exec, execNop, hb, hb', if_true, ite_self] at h ⊢
    split at h
    · cases h; rfl
    · split at h
      · cases h; simp [*]
      · cases h; simp only [*]; rfl
  · cases h; rfl

/-! ### One step -/

theorem turn_eq_engine (s : State) :
    s.turn = .engine ↔ s.status.busy = true ∧ (s.pending = [] ∨ s.gaps.headD 0 = 0) := by
  unfold State.turn
  cases hp : s.pending <;> cases hb : s.status.busy <;> simp

theorem turn_eq_outside (s : State) (ev : BusEvent) :
    s.turn = .outside ev ↔ s.pending.head? = some ev ∧ (s.status.busy = false ∨ s.gaps.headD 0 ≠ 0) := by
  unfold State.turn
  cases hp : s.pending <;> cases hb : s.status.busy <;> simp
  split <;> simp_all

theorem turn_eq_idle (s : State) : s.turn = .idle ↔ s.status.busy = false ∧ s.pending = [] := by
  unfold State.turn
  cases hp : s.pending <;> cases hb : s.status.busy <;> simp
  split <;> simp

/-- One step is one event (R61): a command's step, an illegal word's error, an event from outside, or nothing. -/
theorem step_cases (s : State) :
    (∃ i, s.turn = .engine ∧ decode s.eng.cw = .ok i ∧ step s = exec i s.takeEngineTurn) ∨
    (∃ e, s.turn = .engine ∧ decode s.eng.cw = .error e ∧
      step s = .next (s.takeEngineTurn.raise .illegalCommand 0x00000000#32)) ∨
    (∃ ev, s.turn = .outside ev ∧ step s = busEvent ev s.takeOutsideTurn) ∨
    (s.turn = .idle ∧ step s = .next s) := by
  unfold step
  cases ht : s.turn with
  | engine =>
    have hcw : s.takeEngineTurn.eng.cw = s.eng.cw := rfl
    cases hd : decode s.eng.cw with
    | ok i => exact .inl ⟨i, rfl, rfl, engineStep_ok (hcw ▸ hd)⟩
    | error e => exact .inr (.inl ⟨e, rfl, rfl, engineStep_error (hcw ▸ hd)⟩)
  | outside ev => exact .inr (.inr (.inl ⟨ev, rfl, rfl⟩))
  | idle => exact .inr (.inr (.inr ⟨rfl, rfl⟩))

end Sys2Proof.Machine
end

