-- ==== Sys2Proof/Laws/PerInstr.lean ====
section
/-! SUPPORT. Laws said of every instruction, one lemma per constructor. -/

namespace Sys2Proof.Laws

/-- The word of a well-formed instruction matches its own row of the opcode map (spec/30_encoding.md R85). -/
def EncodingFitsRow.Statement (i : Instr) : Prop :=
  i.wf = true → encode i &&& (opcodeRow i).2 = (opcodeRow i).1

theorem EncodingFitsRow.nop : EncodingFitsRow.Statement .nop := fun _ => by decide

theorem EncodingFitsRow.plookup (note : Nat) : EncodingFitsRow.Statement (.plookup note) := fun h => by
  have h : note < 16 := by simpa [Instr.wf, noteFits] using h
  interval_cases note <;> decide

theorem EncodingFitsRow.tquant : EncodingFitsRow.Statement .tquant := fun _ => by decide

theorem EncodingFitsRow.oscSin (note : Nat) : EncodingFitsRow.Statement (.oscSin note) := fun h => by
  have h : note < 16 := by simpa [Instr.wf, noteFits] using h
  interval_cases note <;> decide

theorem EncodingFitsRow.oscPul (note : Nat) : EncodingFitsRow.Statement (.oscPul note) := fun h => by
  have h : note < 16 := by simpa [Instr.wf, noteFits] using h
  interval_cases note <;> decide

theorem EncodingFitsRow.oscSaw (note : Nat) : EncodingFitsRow.Statement (.oscSaw note) := fun h => by
  have h : note < 16 := by simpa [Instr.wf, noteFits] using h
  interval_cases note <;> decide

theorem EncodingFitsRow.oscSh3 (note : Nat) : EncodingFitsRow.Statement (.oscSh3 note) := fun h => by
  have h : note < 16 := by simpa [Instr.wf, noteFits] using h
  interval_cases note <;> decide

theorem EncodingFitsRow.pcmq : EncodingFitsRow.Statement .pcmq := fun _ => by decide

theorem EncodingFitsRow.synthSin : EncodingFitsRow.Statement .synthSin := fun _ => by decide

theorem EncodingFitsRow.synthPul : EncodingFitsRow.Statement .synthPul := fun _ => by decide

theorem EncodingFitsRow.synthSaw : EncodingFitsRow.Statement .synthSaw := fun _ => by decide

theorem EncodingFitsRow.synthSh3 : EncodingFitsRow.Statement .synthSh3 := fun _ => by decide

theorem EncodingFitsRow.clear : EncodingFitsRow.Statement .clear := fun _ => by decide

end Sys2Proof.Laws
end

