-- ==== Sys2Proof/Certificates/Slice0/Obligations.lean ====
section
/-! DEFINITION. The statements for the provers. Each says what a rule of spec/ says, in the rule's own
terms where it can: a new state is written out field by field, so that it says what changes and that
nothing else does. -/

open Sys2Proof Sys2Proof.Machine

/-! ### Words the statements use -/

/-- `STATUS` after a completion with the given code (spec/30_encoding.md R92): BUSY 0, DONE 1. -/
def Sys2Proof.Machine.doneWith (st : Status) (code : BitVec 4) : Status :=
  { st with busy := false, done := true, ecode := code }

/-- A byte address the host can write (spec/10_state.md R28, R22, spec/20_memory.md R55). -/
def Sys2Proof.Machine.writableAddr (s : State) (a : Nat) : Prop :=
  a ∈ [0x000, 0x00C, 0x010, 0x014, 0x018, 0x01C, 0x020, 0x024, 0x028, 0x040, 0x044] ∨
    (0x1000 ≤ a ∧ a < 0x1000 + s.nseqDepth)

/-- An address with nothing behind it (spec/20_memory.md R50, R51): between the end of `NSEQ` and
`PCM_BASE`, or at or above the end of `PCMBUF`. -/
def Sys2Proof.Machine.unmappedAddr (s : State) (a : Nat) : Prop :=
  (0x1000 + s.nseqDepth ≤ a ∧ a < 0x01000000) ∨ 0x01000000 + 2 * s.pcmDepth ≤ a

/-- The result code of an OSC command, by the order of spec/43_oscillator.md R135. `none` is `SH = 3`. -/
def Sys2Proof.Machine.oscReport (sh : Option Wave) (note : Nat) (s : State) : BitVec 4 :=
  if 12 < note then 1#4
  else if s.status.axv = false then 7#4
  else if s.nsamp.toNat ≤ s.kidx.toNat then 8#4
  else
    match sh with
    | none => 3#4
    | some .sine => 0#4
    | some .pulse => if isFinite s.duty then 0#4 else 4#4
    | some .saw => if isFinite s.width then 0#4 else 4#4

/-- The value of a finite binary64, as a rational number. -/
def Sys2Proof.Machine.f64Rat (a : F64) : ℚ := (f64Int a : ℚ) / 2 ^ 1074

/-- `x` is a finite value nearest to `r`, and if another value is as near, `x` is the even one
(roundTiesToEven). -/
def Sys2Proof.Machine.NearestEven (x : F64) (r : ℚ) : Prop :=
  ∀ y, isFinite y = true →
    |f64Rat x - r| ≤ |f64Rat y - r| ∧
      (|f64Rat x - r| = |f64Rat y - r| → f64Rat y = f64Rat x ∨ x.getLsbD 0 = false)

/-- `x` is the exact result `r` rounded as roundTiesToEven has it: below the overflow limit, half a unit of
the last place above the largest finite value, a finite value nearest to `r`; from the limit on, the infinity
of the sign of `r`. A result that is not exactly 0 keeps its sign, also where it rounds to a zero. -/
def Sys2Proof.Machine.RoundsTo (x : F64) (r : ℚ) : Prop :=
  (|r| < 2 ^ 1024 - 2 ^ 970 → isFinite x = true ∧ NearestEven x r) ∧
  (2 ^ 1024 - 2 ^ 970 ≤ |r| → x = if r < 0 then 0xFFF0000000000000#64 else 0x7FF0000000000000#64) ∧
  (r ≠ 0 → f64Neg x = decide (r < 0))

/-- A host read of the word at `a` gives `v` and changes nothing but the record of reads. -/
def Sys2Proof.Machine.readsAs (s : State) (a v : Word) : Prop :=
  busEvent (.read 4 a) s = .next { s with readLog := v :: s.readLog }

/-- The values of spec/70_reset_and_hazards.md R220(a), the two capacities apart. -/
def Sys2Proof.Machine.ResetRegisters (t : State) : Prop :=
  t.status = { busy := false, done := false, wbusy := false, axv := false, ecode := 0#4 } ∧
  t.errinfo = 0#32 ∧ t.ncount = 0#13 ∧ t.kidx = 0#32 ∧ t.nsamp = 0#32 ∧ t.outlen = 0#32 ∧
  t.bpm = 0x405E000000000000#64 ∧ t.duty = 0x3FE0000000000000#64 ∧ t.width = 0x3FE0000000000000#64 ∧
  t.dur = 0#64 ∧ t.freq = 0#64 ∧ t.sample = 0#64 ∧ t.pcm = 0#32

/-- The instruction is a SYNTH. -/
def Sys2Proof.Machine.isSynth (i : Instr) : Prop := i ∈ [Instr.synthSin, .synthPul, .synthSaw, .synthSh3]

/-- The instruction is an OSC. -/
def Sys2Proof.Machine.isOsc (i : Instr) : Prop :=
  ∃ note, i = .oscSin note ∨ i = .oscPul note ∨ i = .oscSaw note ∨ i = .oscSh3 note

/-- The checks of spec/45_sequencer.md R160 that come before the shape: the notes fit `NSEQ`, each is a
note, and `BPM` gives the axis `(d, n)`. -/
def Sys2Proof.Machine.NotesAndTempoOk (s : State) (d : F64) (n : Nat) : Prop :=
  s.ncount.toNat ≤ s.nseqDepth ∧ (∀ j, j < s.ncount.toNat → s.noteCode j ≤ 12) ∧ axis s.bpm = some (d, n)

/-! ### Encoding -/

/-- Decoding the word of a well-formed command gives the command back (R81, R85). -/
def Obligations.DecodeOfEncodeIsTheInstruction : Prop :=
  ∀ i : Instr, i.wf = true → decode (encode i) = .ok i

/-- What decodes is well-formed and is encoded by the very same word: no bit is dropped (R81, R85). -/
def Obligations.DecodedWordReencodes : Prop :=
  ∀ (w : Word) (i : Instr), decode w = .ok i → i.wf = true ∧ encode i = w

/-- R85: the decoder is the opcode map. The rows; a word matches the row of a command exactly when it
decodes to a command of that row; it matches at most one row; a word that matches none is illegal. -/
def Obligations.DecoderIsTheOpcodeMap : Prop :=
  (opcodeRow .nop = (0x00000000#32, 0xFFFFFFFF#32) ∧ opcodeRow .tquant = (0x20000000#32, 0xFFFFFFFF#32) ∧
    opcodeRow .pcmq = (0x40000000#32, 0xFFFFFFFF#32) ∧ opcodeRow .clear = (0x60000000#32, 0xFFFFFFFF#32) ∧
    opcodeRow .synthSin = (0x50000000#32, 0xFFFFFFFF#32) ∧
    opcodeRow .synthPul = (0x50000010#32, 0xFFFFFFFF#32) ∧
    opcodeRow .synthSaw = (0x50000020#32, 0xFFFFFFFF#32) ∧
    opcodeRow .synthSh3 = (0x50000030#32, 0xFFFFFFFF#32) ∧
    ∀ c, opcodeRow (.plookup c) = (0x10000000#32, 0xFFFFFFF0#32) ∧
      opcodeRow (.oscSin c) = (0x30000000#32, 0xFFFFFFF0#32) ∧
      opcodeRow (.oscPul c) = (0x30000010#32, 0xFFFFFFF0#32) ∧
      opcodeRow (.oscSaw c) = (0x30000020#32, 0xFFFFFFF0#32) ∧
      opcodeRow (.oscSh3 c) = (0x30000030#32, 0xFFFFFFF0#32)) ∧
  (∀ (w : Word) (i : Instr),
    w &&& (opcodeRow i).2 = (opcodeRow i).1 ↔ ∃ j, decode w = .ok j ∧ opcodeRow j = opcodeRow i) ∧
  (∀ (w : Word) (i j : Instr), w &&& (opcodeRow i).2 = (opcodeRow i).1 →
    w &&& (opcodeRow j).2 = (opcodeRow j).1 → opcodeRow i = opcodeRow j) ∧
  (∀ w : Word, (∀ i, w &&& (opcodeRow i).2 ≠ (opcodeRow i).1) → ∃ e, decode w = .error e)

/-- R86: which words are illegal, that an illegal word is accepted like any other, and that its one engine
step raises IllegalCommand and changes nothing else. (`pending` and `gaps` are the model's own fields: log 5;
`phase` too: log 9.) -/
def Obligations.IllegalWordsRaiseIllegalCommand : Prop :=
  (∀ w : Word, w ≠ 0#32 →
    ((∃ e, decode w = .error e) ↔
      (w.extractLsb' 28 4 = 0#4 ∨ 7 ≤ (w.extractLsb' 28 4).toNat) ∨
      w.extractLsb' 6 22 ≠ 0#22 ∨
      (w.extractLsb' 4 2 ≠ 0#2 ∧ w.extractLsb' 28 4 ≠ 3#4 ∧ w.extractLsb' 28 4 ≠ 5#4) ∨
      (w.extractLsb' 0 4 ≠ 0#4 ∧ w.extractLsb' 28 4 ≠ 1#4 ∧ w.extractLsb' 28 4 ≠ 3#4))) ∧
  (∀ (s : State) (w : Word) (e : IllegalWord), decode w = .error e → s.status.busy = false →
    busEvent (.write 4 0#32 w) s =
      .next { s with
        status := { s.status with busy := true, done := false, ecode := 0#4 }
        eng := { s.eng with cw := w, phase := .start } }) ∧
  (∀ (s : State) (e : IllegalWord), s.status.busy = true → (s.pending = [] ∨ s.gaps.headD 0 = 0) →
    decode s.eng.cw = .error e →
    step s = .next { s with status := doneWith s.status 5#4, errinfo := 0#32, gaps := s.gaps.tail })

/-- A few words written out in the spec decode to the commands they stand for. -/
def Obligations.WordsWrittenInTheSpec : Prop :=
  decode 0x00000000#32 = .ok .nop ∧ decode 0x1000000A#32 = .ok (.plookup 10) ∧
  decode 0x20000000#32 = .ok .tquant ∧ decode 0x3000000A#32 = .ok (.oscSin 10) ∧
  decode 0x3000001A#32 = .ok (.oscPul 10) ∧ decode 0x30000022#32 = .ok (.oscSaw 2) ∧
  decode 0x3000003A#32 = .ok (.oscSh3 10) ∧ decode 0x40000000#32 = .ok .pcmq ∧
  decode 0x50000000#32 = .ok .synthSin ∧ decode 0x50000010#32 = .ok .synthPul ∧
  decode 0x50000020#32 = .ok .synthSaw ∧ decode 0x50000030#32 = .ok .synthSh3 ∧
  decode 0x60000000#32 = .ok .clear

/-! ### One step -/

/-- When a command is in flight and the engine moves next, the step is the meaning of the command that
`e.cw` decodes to, with the gap before it used up (R91). A NOP, which is never accepted, runs at the
host's write of 0 to `CMD` (R90, R180). Whose turn it is, `pending` and `gaps` say, which are the model's
own (log 5). -/
def Obligations.StepRunsTheDecodedCommand : Prop :=
  (∀ (s : State) (i : Instr), s.status.busy = true → (s.pending = [] ∨ s.gaps.headD 0 = 0) →
    decode s.eng.cw = .ok i → step s = exec i { s with gaps := s.gaps.tail }) ∧
  (∀ (s : State) (rest : List BusEvent), s.status.busy = false →
    s.pending = .write 4 0#32 0#32 :: rest → step s = exec .nop { s with pending := rest })

/-! ### The commands -/

/-- R180: a NOP does nothing while idle and only sets WBUSY while busy; its word is 0 and no other, every
other word of its opcode being illegal; the host's write is where it happens. -/
def Obligations.NopChangesNothingWhenIdle : Prop :=
  (∀ w : Word, decode w = .ok .nop ↔ w = 0#32) ∧
  (∀ w : Word, w ≠ 0#32 → w.extractLsb' 28 4 = 0#4 → ∃ e, decode w = .error e) ∧
  (∀ s : State, s.status.busy = false → exec .nop s = .next s ∧ busEvent (.write 4 0#32 0#32) s = .next s) ∧
  (∀ s : State, s.status.busy = true →
    exec .nop s = .next { s with status := { s.status with wbusy := true } } ∧
    busEvent (.write 4 0#32 0#32) s = .next { s with status := { s.status with wbusy := true } })

/-- R181: CLEAR clears WBUSY, DONE, ECODE and ERRINFO, ends BUSY, and changes nothing else; its word and
no other; written while busy, it is ignored and sets WBUSY. -/
def Obligations.ClearClearsStatusAndErrorInfo : Prop :=
  (∀ w : Word, decode w = .ok .clear ↔ w = 0x60000000#32) ∧
  (∀ s : State, exec .clear s =
    .next { s with
      status := { busy := false, done := false, wbusy := false, axv := s.status.axv, ecode := 0#4 }
      errinfo := 0#32 }) ∧
  ∀ s : State, s.status.busy = true →
    busEvent (.write 4 0#32 0x60000000#32) s = .next { s with status := { s.status with wbusy := true } }

/-- R103: PLOOKUP writes the ROM entry of a note to FREQ; codes 13 to 15 raise InvalidNoteSymbol with the
code in ERRINFO; nothing else changes. -/
def Obligations.PlookupWritesTheRomEntry : Prop :=
  (∀ (w : Word) (c : Nat), decode w = .ok (.plookup c) ↔ c < 16 ∧ w = BitVec.ofNat 32 (0x10000000 + c)) ∧
  (∀ (s : State) (c : Nat) (f : F64), c ≤ 12 → promTable[c]? = some f →
    exec (.plookup c) s = .next { s with freq := f, status := doneWith s.status 0#4, errinfo := 0#32 }) ∧
  (∀ (s : State) (c : Nat), 13 ≤ c → c < 16 →
    exec (.plookup c) s =
      .next { s with status := doneWith s.status 1#4, errinfo := BitVec.ofNat 32 (c * 65536) }) ∧
  promTable[0]? = some 0x0000000000000000#64 ∧ promTable[10]? = some 0x407B800000000000#64

/-- TQUANT: a valid tempo gives DUR, NSAMP and AXV; an invalid one clears AXV and raises InvalidTempo;
nothing else changes (R112). -/
def Obligations.TquantWritesTheAxis : Prop :=
  (∀ (s : State) (d : F64) (n : Nat), axis s.bpm = some (d, n) →
    exec .tquant s =
      .next { s with
        dur := d, nsamp := BitVec.ofNat 32 n, errinfo := 0#32
        status := { doneWith s.status 0#4 with axv := true } }) ∧
  (∀ s : State, axis s.bpm = none →
    exec .tquant s =
      .next { s with errinfo := 0#32, status := { doneWith s.status 2#4 with axv := false } })

/-- OSC.SIN, OSC.PUL and OSC.SAW where no check fails: FREQ and SAMPLE, and nothing else (R135 to R137). -/
def Obligations.OscWritesOneSample : Prop :=
  ∀ (s : State) (c : Nat) (f : F64), c ≤ 12 → promTable[c]? = some f → s.status.axv = true →
    s.kidx.toNat < s.nsamp.toNat →
    (exec (.oscSin c) s =
      .next { s with
        freq := f, errinfo := 0#32, status := doneWith s.status 0#4
        sample := if c = 0 then 0#64
          else sineSample f (timeValue s.kidx.toNat s.dur s.nsamp.toNat) }) ∧
    (isFinite s.duty = true → exec (.oscPul c) s =
      .next { s with
        freq := f, errinfo := 0#32, status := doneWith s.status 0#4
        sample := if c = 0 then 0#64
          else pulseSample f (timeValue s.kidx.toNat s.dur s.nsamp.toNat) s.duty }) ∧
    (isFinite s.width = true → exec (.oscSaw c) s =
      .next { s with
        freq := f, errinfo := 0#32, status := doneWith s.status 0#4
        sample := if c = 0 then 0#64
          else sawSample f (timeValue s.kidx.toNat s.dur s.nsamp.toNat) s.width })

/-- The OSC errors, checked in the order of R135, the first that applies being reported (R194). On an
error FREQ and SAMPLE are unchanged, and in every case nothing but them and the completion fields is. -/
def Obligations.OscReportsTheFirstError : Prop :=
  ∀ (sh : Option Wave) (s : State) (c : Nat),
    ∃ t, exec (match sh with
        | none => .oscSh3 c
        | some w => oscInstr w c) s = .next t ∧
      t = { s with
        status := doneWith s.status (oscReport sh c s)
        errinfo := if 12 < c then BitVec.ofNat 32 (c % 256 * 65536) else 0#32
        freq := t.freq
        sample := t.sample } ∧
      (oscReport sh c s ≠ 0#4 → t.freq = s.freq ∧ t.sample = s.sample)

/-- R138: OSC.SH3 never writes FREQ or SAMPLE. With a note, a valid axis and an index in range it raises
InvalidWaveformKind; InvalidNoteSymbol, AxisNotReady and IndexRange come first, in that order. -/
def Obligations.OscSh3RaisesInvalidWaveformKind : Prop :=
  (∀ (w : Word) (c : Nat), decode w = .ok (.oscSh3 c) ↔ c < 16 ∧ w = BitVec.ofNat 32 (0x30000030 + c)) ∧
  (∀ (s : State) (c : Nat), c ≤ 12 → s.status.axv = true → s.kidx.toNat < s.nsamp.toNat →
    exec (.oscSh3 c) s = .next { s with status := doneWith s.status 3#4, errinfo := 0#32 }) ∧
  (∀ (s : State) (c : Nat), 13 ≤ c → c < 16 →
    exec (.oscSh3 c) s =
      .next { s with status := doneWith s.status 1#4, errinfo := BitVec.ofNat 32 (c * 65536) }) ∧
  (∀ (s : State) (c : Nat), c ≤ 12 → s.status.axv = false →
    exec (.oscSh3 c) s = .next { s with status := doneWith s.status 7#4, errinfo := 0#32 }) ∧
  (∀ (s : State) (c : Nat), c ≤ 12 → s.status.axv = true → s.nsamp.toNat ≤ s.kidx.toNat →
    exec (.oscSh3 c) s = .next { s with status := doneWith s.status 8#4, errinfo := 0#32 })

/-- PCMQ: PCM becomes the 16 bits of `quant(SAMPLE)`, zero-extended, and nothing else changes (R151). -/
def Obligations.PcmqQuantizesSample : Prop :=
  decode 0x40000000#32 = .ok .pcmq ∧
  ∀ s : State, exec .pcmq s =
    .next { s with
      pcm := 0#16 ++ BitVec.ofInt 16 (quant s.sample)
      status := doneWith s.status 0#4, errinfo := 0#32 }

/-- The first step of a SYNTH that passes every check and has a note: the axis, OUTLEN 0 and the pointers,
and nothing else (R160). The status but for AXV is as it was: the command goes on. (`phase` is the model's
own field: log 9. That the four registers are written here, and not when BUSY clears, is the model's reading
of R160 beside R61(d): log 14.) -/
def Obligations.SynthFirstStepSetsUpTheRun : Prop :=
  ∀ (s : State) (d : F64) (n : Nat), s.eng.phase = .start → 0 < s.ncount.toNat → NotesAndTempoOk s d n →
    s.ncount.toNat * n ≤ s.pcmDepth →
    let t : State := { s with
      outlen := 0#32, dur := d, nsamp := BitVec.ofNat 32 n
      status := { s.status with axv := true }
      eng := { cw := s.eng.cw, np := 0, kp := 0, n := n, phase := .generate } }
    exec .synthSin s = .next t ∧
    (isFinite s.duty = true → exec .synthPul s = .next t) ∧
    (isFinite s.width = true → exec .synthSaw s = .next t)

/-- A SYNTH of an empty sequence completes in its first step with OUTLEN 0 and the new axis (R160, R163).
(`phase` is the model's own field: log 9.) -/
def Obligations.SynthOfNoNotesCompletesAtOnce : Prop :=
  ∀ (s : State) (d : F64) (n : Nat), s.eng.phase = .start → s.ncount = 0#13 → axis s.bpm = some (d, n) →
    ∀ i, (i = .synthSin ∨ (i = .synthPul ∧ isFinite s.duty = true) ∨ (i = .synthSaw ∧ isFinite s.width = true)) →
    ∃ t, exec i s = .next t ∧
      t = { s with
        outlen := 0#32, dur := d, nsamp := BitVec.ofNat 32 n, errinfo := 0#32
        status := { doneWith s.status 0#4 with axv := true }
        eng := t.eng } ∧
      ∀ a, t.readByte a = s.readByte a

/-- The errors of the first step of SYNTH.SIN, SYNTH.PUL and SYNTH.SAW, in the order of R160, the first
that applies being reported, with what stands written before each (R192). (`phase` is the model's own
field: log 9.) -/
def Obligations.SynthReportsTheFirstError : Prop :=
  ∀ (w : Wave) (s : State), s.eng.phase = .start →
    (s.nseqDepth < s.ncount.toNat →
      exec (synthInstr w) s =
        .next { s with outlen := 0#32, errinfo := 0#32, status := doneWith s.status 6#4 }) ∧
    (∀ j, s.ncount.toNat ≤ s.nseqDepth → j < s.ncount.toNat → 12 < s.noteCode j →
      (∀ i, i < j → s.noteCode i ≤ 12) → s.nseqDepth ≤ 4096 →
      exec (synthInstr w) s =
        .next { s with
          outlen := 0#32, status := doneWith s.status 1#4
          errinfo := BitVec.ofNat 32 (s.noteCode j * 65536 + j) }) ∧
    (s.ncount.toNat ≤ s.nseqDepth → (∀ j, j < s.ncount.toNat → s.noteCode j ≤ 12) → axis s.bpm = none →
      exec (synthInstr w) s =
        .next { s with
          outlen := 0#32, errinfo := 0#32
          status := { doneWith s.status 2#4 with axv := false } }) ∧
    (∀ d n, NotesAndTempoOk s d n → shapeParamOk w s = false →
      exec (synthInstr w) s =
        .next { s with
          outlen := 0#32, dur := d, nsamp := BitVec.ofNat 32 n, errinfo := 0#32
          status := { doneWith s.status 4#4 with axv := true } }) ∧
    (∀ d n, NotesAndTempoOk s d n → shapeParamOk w s = true → s.pcmDepth < s.ncount.toNat * n →
      exec (synthInstr w) s =
        .next { s with
          outlen := 0#32, dur := d, nsamp := BitVec.ofNat 32 n, errinfo := 0#32
          status := { doneWith s.status 6#4 with axv := true } })

/-- R166: SYNTH.SH3 raises in its one step: InvalidWaveformKind once the notes and the tempo are valid,
the new axis standing; CapacityExceeded, InvalidNoteSymbol and InvalidTempo come first. OUTLEN becomes 0
and every byte of memory stays. -/
def Obligations.SynthSh3RaisesInvalidWaveformKind : Prop :=
  (∀ w : Word, decode w = .ok .synthSh3 ↔ w = 0x50000030#32) ∧
  (∀ (s : State) (d : F64) (n : Nat), NotesAndTempoOk s d n →
    exec .synthSh3 s =
      .next { s with
        outlen := 0#32, dur := d, nsamp := BitVec.ofNat 32 n, errinfo := 0#32
        status := { doneWith s.status 3#4 with axv := true } }) ∧
  (∀ s : State, s.nseqDepth < s.ncount.toNat →
    exec .synthSh3 s = .next { s with outlen := 0#32, errinfo := 0#32, status := doneWith s.status 6#4 }) ∧
  (∀ (s : State) (j : Nat), s.nseqDepth ≤ 4096 → s.ncount.toNat ≤ s.nseqDepth → j < s.ncount.toNat →
    12 < s.noteCode j → (∀ i, i < j → s.noteCode i ≤ 12) →
    exec .synthSh3 s =
      .next { s with
        outlen := 0#32, status := doneWith s.status 1#4
        errinfo := BitVec.ofNat 32 (s.noteCode j * 65536 + j) }) ∧
  (∀ s : State, s.ncount.toNat ≤ s.nseqDepth → (∀ j, j < s.ncount.toNat → s.noteCode j ≤ 12) →
    axis s.bpm = none →
    exec .synthSh3 s =
      .next { s with outlen := 0#32, errinfo := 0#32, status := { doneWith s.status 2#4 with axv := false } }) ∧
  (∀ s t : State, exec .synthSh3 s = .next t → ∀ a, t.readByte a = s.readByte a)

/-- A sample step of a SYNTH: the sample of R161 goes to `PCM_BASE + 2 (np N + kp)`, every byte outside
its two stays, the pointers move on, and after the last sample the command completes with
`OUTLEN = NCOUNT × N` (R161, R162). (`phase` is the model's own field: log 9.) -/
def Obligations.SynthSampleStepWritesOneSample : Prop :=
  ∀ (w : Wave) (s : State) (f : F64), s.eng.phase = .generate → s.eng.np < s.nseqDepth →
    s.noteCode s.eng.np ≤ 12 → promTable[s.noteCode s.eng.np]? = some f →
    s.eng.np * s.eng.n + s.eng.kp < s.pcmDepth →
    ∃ t, exec (synthInstr w) s = .next t ∧
      t.pcmSample (s.eng.np * s.eng.n + s.eng.kp) =
        BitVec.ofInt 16 (quant (oscSample w (s.noteCode s.eng.np) f (timeValue s.eng.kp s.dur s.eng.n) s)) ∧
      (∀ a, a ≠ pcmAddr (s.eng.np * s.eng.n + s.eng.kp) → a ≠ pcmAddr (s.eng.np * s.eng.n + s.eng.kp) + 1 →
        t.readByte a = s.readByte a) ∧
      (s.eng.kp + 1 < s.eng.n →
        t = { s with mem := t.mem, eng := { s.eng with kp := s.eng.kp + 1 } }) ∧
      (s.eng.n ≤ s.eng.kp + 1 → s.eng.np + 1 ≠ s.ncount.toNat →
        t = { s with mem := t.mem, eng := { s.eng with kp := 0, np := s.eng.np + 1 } }) ∧
      (s.eng.n ≤ s.eng.kp + 1 → s.eng.np + 1 = s.ncount.toNat →
        t = { s with
          mem := t.mem, eng := { s.eng with kp := 0, np := s.eng.np + 1 }
          outlen := BitVec.ofNat 32 (s.ncount.toNat * s.eng.n)
          status := doneWith s.status 0#4, errinfo := 0#32 })

/-- The whole SYNTH: from the acceptance, in `1 + NCOUNT × N` engine steps, `PCMBUF[j N + k]` is the
quantized sample `k` of note `j` for every note and every sample, the registers are those of R160 and
R162, and every byte outside the output is as it was (R161, R162, R236, R240). (A run in which no host
event is pending: log 5; `phase`: log 9. For a run with accesses between the steps see
SynthSampleStepWritesOneSample and InputsHoldStillWhileBusy.) -/
def Obligations.SynthFillsThePcmBuffer : Prop :=
  ∀ (w : Wave) (s : State) (d : F64) (n : Nat), s.status.busy = true → s.status.ecode = 0#4 →
    s.eng.phase = .start → decode s.eng.cw = .ok (synthInstr w) → s.pending = [] →
    s.nseqDepth ≤ 4096 → s.pcmDepth ≤ 8388608 →
    NotesAndTempoOk s d n → shapeParamOk w s = true → s.ncount.toNat * n ≤ s.pcmDepth →
    ∃ t : State, Sys2Proof.core.run (1 + s.ncount.toNat * n) s = .next t ∧
      t.status = { doneWith s.status 0#4 with axv := true } ∧ t.errinfo = 0#32 ∧
      t.outlen.toNat = s.ncount.toNat * n ∧ t.dur = d ∧ t.nsamp.toNat = n ∧
      (∀ j k f, j < s.ncount.toNat → k < n → promTable[s.noteCode j]? = some f →
        t.pcmSample (j * n + k) =
          BitVec.ofInt 16 (quant (oscSample w (s.noteCode j) f (timeValue k d n) s))) ∧
      (∀ a, a < pcmBase ∨ pcmBase + 2 * (s.ncount.toNat * n) ≤ a → t.readByte a = s.readByte a) ∧
      t.ncount = s.ncount ∧ t.bpm = s.bpm ∧ t.duty = s.duty ∧ t.width = s.width ∧ t.kidx = s.kidx ∧
      t.freq = s.freq ∧ t.sample = s.sample ∧ t.pcm = s.pcm

/-- Two SYNTH commands of one shape in flight whose inputs agree (R167: NCOUNT, the notes, BPM, the shape's
parameter, the two depths) take the same outcome in their first step, whatever the other registers are, AXV
and WBUSY among them: the same completion, ERRINFO and OUTLEN; the same AXV where the step reached the
tempo; the same axis where the tempo is valid; the same pointers where it passed every check. (`phase`:
log 9. That the axis is written in this step: log 14.) -/
def Obligations.SynthOutcomeDependsOnItsInputsAlone : Prop :=
  ∀ (w : Wave) (s s' t t' : State), s.eng.phase = .start → s'.eng.phase = .start →
    s.ncount = s'.ncount → (∀ j, j < s.ncount.toNat → s.noteCode j = s'.noteCode j) → s.bpm = s'.bpm →
    (w = .pulse → s.duty = s'.duty) → (w = .saw → s.width = s'.width) →
    s.nseqCap = s'.nseqCap → s.pcmCap = s'.pcmCap →
    s.status.busy = true → s.status.done = false → s.status.ecode = 0#4 →
    s'.status.busy = true → s'.status.done = false → s'.status.ecode = 0#4 →
    exec (synthInstr w) s = .next t → exec (synthInstr w) s' = .next t' →
    t.status.busy = t'.status.busy ∧ t.status.done = t'.status.done ∧ t.status.ecode = t'.status.ecode ∧
      t.outlen = t'.outlen ∧ t.eng.phase = t'.eng.phase ∧
      (t.status.busy = false → t.errinfo = t'.errinfo) ∧
      (t.status.ecode = 2#4 ∨ t.status.ecode = 4#4 ∨ (t.status.ecode = 6#4 ∧ s.ncount.toNat ≤ s.nseqDepth) ∨
        t.eng.phase = .generate → t.status.axv = t'.status.axv) ∧
      (t.status.ecode = 4#4 ∨ (t.status.ecode = 6#4 ∧ s.ncount.toNat ≤ s.nseqDepth) ∨
        t.eng.phase = .generate → t.dur = t'.dur ∧ t.nsamp = t'.nsamp) ∧
      (t.eng.phase = .generate → t.eng.n = t'.eng.n ∧ t.eng.np = t'.eng.np ∧ t.eng.kp = t'.eng.kp)

/-! ### Errors -/

/-- R193: errors are precise. When a command ends with an error code, the state is the one before the
command but for the completion fields and the writes listed in R192, which are, by code: InvalidTempo clears
AXV; every error of a SYNTH makes OUTLEN 0; InvalidWaveformKind, InvalidShapeParameter and the second
CapacityExceeded of a SYNTH leave the new axis in DUR and NSAMP, with AXV 1; nothing else. ERRINFO is 0 but
after InvalidNoteSymbol, and every byte of memory is untouched. Of an illegal word's error only the
completion fields are left. -/
def Obligations.ErrorsArePrecise : Prop :=
  ∀ (i : Instr) (s t : State), s.status.ecode = 0#4 → exec i s = .next t → t.status.ecode ≠ 0#4 →
    t = { s with
      errinfo := t.errinfo, outlen := t.outlen, dur := t.dur, nsamp := t.nsamp
      status := { doneWith s.status t.status.ecode with axv := t.status.axv } } ∧
    (isSynth i → t.outlen = 0#32) ∧
    (¬ isSynth i → t.outlen = s.outlen ∧ t.dur = s.dur ∧ t.nsamp = s.nsamp) ∧
    (¬ isSynth i → i ≠ .tquant → t.status.axv = s.status.axv) ∧
    (t.status.ecode = 2#4 → t.status.axv = false ∧ t.dur = s.dur ∧ t.nsamp = s.nsamp) ∧
    (t.status.ecode = 1#4 ∨ (t.status.ecode = 6#4 ∧ s.nseqDepth < s.ncount.toNat) →
      t.dur = s.dur ∧ t.nsamp = s.nsamp ∧ t.status.axv = s.status.axv) ∧
    (isSynth i → t.status.ecode = 3#4 ∨ t.status.ecode = 4#4 ∨
        (t.status.ecode = 6#4 ∧ s.ncount.toNat ≤ s.nseqDepth) →
      axis s.bpm = some (t.dur, t.nsamp.toNat) ∧ t.status.axv = true) ∧
    (isSynth i → t.status.ecode ∈ [1#4, 2#4, 3#4, 4#4, 6#4]) ∧
    (t.status.ecode ≠ 1#4 → t.errinfo = 0#32) ∧
    (∀ a, t.readByte a = s.readByte a) ∧
    ∀ (u : State) (e : IllegalWord), decode u.eng.cw = .error e →
      engineStep u = .next { u with status := doneWith u.status 5#4, errinfo := 0#32 }

/-! ### What no command, or no step, does -/

/-- Commands write none of the RW registers except SAMPLE, which OSC writes (R43). -/
def Obligations.CommandsKeepTheHostsRegisters : Prop :=
  ∀ (i : Instr) (s t : State), exec i s = .next t →
    t.ncount = s.ncount ∧ t.bpm = s.bpm ∧ t.duty = s.duty ∧ t.width = s.width ∧ t.kidx = s.kidx ∧
      (¬ isOsc i → t.sample = s.sample)

/-- Each result register has its writers and no other: FREQ (PLOOKUP, OSC), PCM (PCMQ), OUTLEN (SYNTH),
DUR and NSAMP (TQUANT, SYNTH) (R35, R36, R37). -/
def Obligations.ResultRegistersHaveTheirOwnWriters : Prop :=
  ∀ (i : Instr) (s t : State), exec i s = .next t →
    ((∀ note, i ≠ .plookup note) → ¬ isOsc i → t.freq = s.freq) ∧
    (i ≠ .pcmq → t.pcm = s.pcm) ∧
    (¬ isSynth i → t.outlen = s.outlen) ∧
    (¬ isSynth i → i ≠ .tquant → t.dur = s.dur ∧ t.nsamp = s.nsamp)

/-- The engine's stores: only a sample step of a SYNTH stores, and only the two bytes of the sample at
`np N + kp`; so the engine never writes `NSEQ` (R55, R56, R59). (`phase`: log 9.) -/
def Obligations.EngineStoresOnlyTheSample : Prop :=
  ∀ (i : Instr) (s t : State), exec i s = .next t →
    (∀ a, (a ≠ pcmAddr (s.eng.np * s.eng.n + s.eng.kp) ∧ a ≠ pcmAddr (s.eng.np * s.eng.n + s.eng.kp) + 1) →
      t.readByte a = s.readByte a) ∧
    (¬ isSynth i ∨ i = .synthSh3 ∨ s.eng.phase = .start → ∀ a, t.readByte a = s.readByte a)

/-- `NSEQ_CAP` and `PCM_CAP` never change, reset included (R37, R44, R220). -/
def Obligations.CapacitiesNeverChange : Prop :=
  ∀ s t : State, step s = .next t → t.nseqCap = s.nseqCap ∧ t.pcmCap = s.pcmCap

/-- While a command is in flight its inputs hold still. No step but a reset changes NCOUNT, BPM, DUTY, WIDTH,
KIDX or a byte of `NSEQ`; and the inputs that commands also write, SAMPLE, AXV, DUR and NSAMP (R88), are
changed by no event from outside but a reset (R64, R91, R235). (Whose turn it is: log 5.) -/
def Obligations.InputsHoldStillWhileBusy : Prop :=
  ∀ s t : State, s.status.busy = true → s.turn ≠ .outside .reset → step s = .next t →
    t.ncount = s.ncount ∧ t.bpm = s.bpm ∧ t.duty = s.duty ∧ t.width = s.width ∧ t.kidx = s.kidx ∧
      (∀ a, a < pcmBase → t.readByte a = s.readByte a) ∧
      (s.turn ≠ .engine →
        t.sample = s.sample ∧ t.status.axv = s.status.axv ∧ t.dur = s.dur ∧ t.nsamp = s.nsamp)

/-- R26: accepting a command other than NOP sets BUSY, and BUSY changes in no other way than by that, by
an engine step of the command in flight (its completion), or by reset. -/
def Obligations.BusyChangesByAcceptanceAndCompletion : Prop :=
  (∀ (s : State) (w : Word), s.status.busy = false → w ≠ 0#32 →
    ∃ t, busEvent (.write 4 0#32 w) s = .next t ∧ t.status.busy = true) ∧
  (∀ s t : State, step s = .next t → s.status.busy = false → t.status.busy = true →
    ∃ w, s.pending.head? = some (.write 4 0#32 w) ∧ w ≠ 0#32 ∧ t.eng.cw = w) ∧
  (∀ s t : State, step s = .next t → s.status.busy = true → t.status.busy = false →
    s.turn = .engine ∨ s.turn = .outside .reset)

/-- Only CLEAR and reset clear WBUSY (R28, R45). -/
def Obligations.WbusyIsSticky : Prop :=
  ∀ s t : State, step s = .next t → s.status.wbusy = true → t.status.wbusy = false →
    (s.turn = .engine ∧ decode s.eng.cw = .ok .clear) ∨ s.turn = .outside .reset

/-- AXV rises only by TQUANT or SYNTH, and falls only by them, by an accepted write to BPM or by reset
(R29, R45). -/
def Obligations.AxvHasItsOwnWriters : Prop :=
  ∀ s t : State, step s = .next t → s.status.axv ≠ t.status.axv →
    (s.turn = .engine ∧ ∃ i, decode s.eng.cw = .ok i ∧ (i = .tquant ∨ isSynth i)) ∨
    (t.status.axv = false ∧ ((∃ data, s.turn = .outside (.write 4 0x10#32 data)) ∨
      (∃ data, s.turn = .outside (.write 4 0x14#32 data)) ∨ s.turn = .outside .reset))

/-! ### The host interface -/

/-- R90: a write of `w` to CMD is ignored while busy and sets WBUSY; while idle 0 changes nothing, and any
other word is accepted. (That the command stands at its first step is the model's field `phase`: log 9.) -/
def Obligations.CommandWriteIsAcceptedWhenIdle : Prop :=
  ∀ (s : State) (w : Word),
    (s.status.busy = true →
      busEvent (.write 4 0#32 w) s = .next { s with status := { s.status with wbusy := true } }) ∧
    (s.status.busy = false → w = 0#32 → busEvent (.write 4 0#32 w) s = .next s) ∧
    (s.status.busy = false → w ≠ 0#32 →
      busEvent (.write 4 0#32 w) s =
        .next { s with
          status := { s.status with busy := true, done := false, ecode := 0#4 }
          eng := { s.eng with cw := w, phase := .start } })

/-- R230: while busy, a write to a writable location only sets WBUSY, a command word included; and a
write to any other location does nothing at all, not even that (R28). (A word that straddles the end of
`NSEQ` counts as writable when its first byte is in `NSEQ`: log 10.) -/
def Obligations.BusyWritesOnlySetWbusy : Prop :=
  ∀ (s : State) (a data : Word), s.status.busy = true → a.toNat % 4 = 0 →
    (writableAddr s a.toNat →
      busEvent (.write 4 a data) s = .next { s with status := { s.status with wbusy := true } }) ∧
    (¬ writableAddr s a.toNat → busEvent (.write 4 a data) s = .next s)

/-- R113: an accepted write to either half of BPM stores that half and clears AXV, in the same step, and
changes nothing else; a write of the value already there too. -/
def Obligations.BpmWriteClearsAxv : Prop :=
  ∀ (s : State) (data : Word), s.status.busy = false →
    busEvent (.write 4 0x10#32 data) s =
      .next { s with bpm := s.bpm.extractLsb' 32 32 ++ data, status := { s.status with axv := false } } ∧
    busEvent (.write 4 0x14#32 data) s =
      .next { s with bpm := data ++ s.bpm.extractLsb' 0 32, status := { s.status with axv := false } }

/-- While idle a host read of a register gives its present value, register by register, CMD reading 0 and
STATUS laid out as R25 has it; an accepted write to an RW register is what a host read of it then gives
(bits [12:0] of it for NCOUNT); every other register then reads as before, but for the AXV bit after a write
to BPM; memory too (R22 to R25, R32, R43). (The record of reads is the model's own field: log 5.) -/
def Obligations.WrittenRegisterReadsBack : Prop :=
  (∀ s : State, s.status.busy = false →
    readsAs s 0x000#32 0#32 ∧
    (∃ v, readsAs s 0x004#32 v ∧ v.getLsbD 0 = false ∧ v.getLsbD 1 = s.status.done ∧
      v.getLsbD 2 = s.status.wbusy ∧ v.getLsbD 3 = s.status.axv ∧ v.extractLsb' 4 4 = 0#4 ∧
      v.extractLsb' 8 4 = s.status.ecode ∧ v.extractLsb' 12 20 = 0#20) ∧
    readsAs s 0x008#32 s.errinfo ∧ readsAs s 0x00C#32 (0#19 ++ s.ncount) ∧
    readsAs s 0x010#32 (s.bpm.extractLsb' 0 32) ∧ readsAs s 0x014#32 (s.bpm.extractLsb' 32 32) ∧
    readsAs s 0x018#32 (s.duty.extractLsb' 0 32) ∧ readsAs s 0x01C#32 (s.duty.extractLsb' 32 32) ∧
    readsAs s 0x020#32 (s.width.extractLsb' 0 32) ∧ readsAs s 0x024#32 (s.width.extractLsb' 32 32) ∧
    readsAs s 0x028#32 s.kidx ∧ readsAs s 0x02C#32 s.nsamp ∧
    readsAs s 0x030#32 (s.dur.extractLsb' 0 32) ∧ readsAs s 0x034#32 (s.dur.extractLsb' 32 32) ∧
    readsAs s 0x038#32 (s.freq.extractLsb' 0 32) ∧ readsAs s 0x03C#32 (s.freq.extractLsb' 32 32) ∧
    readsAs s 0x040#32 (s.sample.extractLsb' 0 32) ∧ readsAs s 0x044#32 (s.sample.extractLsb' 32 32) ∧
    readsAs s 0x048#32 s.pcm ∧ readsAs s 0x04C#32 s.outlen ∧
    readsAs s 0x050#32 s.nseqCap ∧ readsAs s 0x054#32 s.pcmCap) ∧
  (∀ (s : State) (r : Reg) (a data : Word), s.status.busy = false → regAt a.toNat = some r →
    r.writable = true → r ≠ .cmd →
    ∃ t, busEvent (.write 4 a data) s = .next t ∧
      readsAs t a (if r = .ncount then data &&& 0x1FFF#32 else data) ∧
      (∀ b q, regAt b.toNat = some q → q ≠ r → q ≠ .status → ∃ v, readsAs s b v ∧ readsAs t b v) ∧
      t.status = { s.status with
        axv := if r = .bpmLo ∨ r = .bpmHi then false else s.status.axv } ∧
      (∀ b, t.readByte b = s.readByte b))

/-- A word write to `NSEQ` stores its four bytes, the lowest first, drops those at or beyond the depth,
and changes nothing else; while idle a word read of `NSEQ` gives the same bytes in the same places, and 0 at
or beyond the depth, so a write reads back (R55). (The record of reads is the model's own field: log 5; a
word that straddles the depth: log 10.) -/
def Obligations.NseqWriteStoresLittleEndianBytes : Prop :=
  ∀ (s : State) (a data : Word), s.status.busy = false → s.nseqDepth ≤ 4096 → a.toNat % 4 = 0 →
    0x1000 ≤ a.toNat → a.toNat < 0x1000 + s.nseqDepth →
    ∃ t, busEvent (.write 4 a data) s = .next t ∧
      (∀ i, i < 4 → a.toNat + i < 0x1000 + s.nseqDepth →
        t.readByte (a.toNat + i) = data.extractLsb' (8 * i) 8) ∧
      (∀ b, (b < a.toNat ∨ a.toNat + 4 ≤ b ∨ 0x1000 + s.nseqDepth ≤ b) → t.readByte b = s.readByte b) ∧
      t = { s with mem := t.mem } ∧
      (∃ v, readsAs s a v ∧ ∀ i, i < 4 →
        v.extractLsb' (8 * i) 8 = if a.toNat + i < 0x1000 + s.nseqDepth then s.readByte (a.toNat + i) else 0#8) ∧
      (∃ v, readsAs t a v ∧ ∀ i, i < 4 →
        v.extractLsb' (8 * i) 8 = if a.toNat + i < 0x1000 + s.nseqDepth then data.extractLsb' (8 * i) 8 else 0#8)

/-- A word read of `PCMBUF` while idle gives sample 2m in the low half and sample 2m + 1 in the high half,
or 0 there beyond the depth (R57(b)). -/
def Obligations.PcmWordReadGivesTwoSamples : Prop :=
  ∀ (s : State) (a : Word) (m : Nat), s.status.busy = false → s.nseqDepth ≤ 4096 →
    a.toNat = 0x01000000 + 4 * m → 2 * m < s.pcmDepth →
    busEvent (.read 4 a) s =
      .next { s with
        readLog := ((if 2 * m + 1 < s.pcmDepth then s.pcmSample (2 * m + 1) else 0#16) ++ s.pcmSample (2 * m))
          :: s.readLog }

/-- R51: an unmapped address reads 0 and ignores writes, busy or not; so do the addresses beyond the depth
of either memory. No side effect. -/
def Obligations.UnmappedReadsZeroAndIgnoresWrites : Prop :=
  ∀ (s : State) (a data : Word), s.nseqDepth ≤ 4096 → a.toNat % 4 = 0 → unmappedAddr s a.toNat →
    (∃ c, busEvent (.read 4 a) s = .next { s with readLog := 0#32 :: s.readLog, freeCount := c }) ∧
    busEvent (.write 4 a data) s = .next s

/-- R42, the reserved offsets of R41, and `PCMBUF` (R56): a write there does nothing, busy or not, WBUSY
included; a reserved offset reads 0. -/
def Obligations.ReadOnlyAndReservedIgnoreWrites : Prop :=
  (∀ (s : State) (a data : Word),
    a.toNat ∈ [0x004, 0x008, 0x02C, 0x030, 0x034, 0x038, 0x03C, 0x048, 0x04C, 0x050, 0x054] →
    busEvent (.write 4 a data) s = .next s) ∧
  (∀ (s : State) (a data : Word), a.toNat % 4 = 0 → 0x058 ≤ a.toNat → a.toNat ≤ 0xFFC →
    busEvent (.write 4 a data) s = .next s ∧
    ∃ c, busEvent (.read 4 a) s = .next { s with readLog := 0#32 :: s.readLog, freeCount := c }) ∧
  (∀ (s : State) (a data : Word), s.nseqDepth ≤ 4096 → a.toNat % 4 = 0 → 0x01000000 ≤ a.toNat →
    a.toNat < 0x01000000 + 2 * s.pcmDepth → busEvent (.write 4 a data) s = .next s)

/-- R232: reads while busy. STATUS gives BUSY 1, DONE 0, ECODE 0 and the present WBUSY, with AXV open; the
registers no command writes, and `NSEQ`, read their values; reserved and unmapped addresses read 0; every
aligned read gives some value, and no
read has a side effect. (The open values are free: nothing is said of them; log 7.) -/
def Obligations.ReadsWhileBusy : Prop :=
  ∀ s : State, s.status.busy = true →
    (∃ v c, busEvent (.read 4 4#32) s = .next { s with readLog := v :: s.readLog, freeCount := c } ∧
      v &&& 0xFFFFFFF7#32 = if s.status.wbusy then 5#32 else 1#32) ∧
    (∀ (a : Word) (r : Reg), regAt a.toNat = some r →
      r ∈ [.ncount, .bpmLo, .bpmHi, .dutyLo, .dutyHi, .widthLo, .widthHi, .kidx, .nseqCap, .pcmCap, .cmd] →
      ∃ c, busEvent (.read 4 a) s = .next { s with readLog := readReg r s :: s.readLog, freeCount := c }) ∧
    (∀ a : Word, a.toNat % 4 = 0 → 0x1000 ≤ a.toNat → a.toNat < 0x1000 + s.nseqDepth →
      ∃ c, busEvent (.read 4 a) s =
        .next { s with readLog := s.busWord a.toNat :: s.readLog, freeCount := c }) ∧
    (∀ a : Word, a.toNat % 4 = 0 →
      ((0x058 ≤ a.toNat ∧ a.toNat ≤ 0xFFC) ∨ (s.nseqDepth ≤ 4096 ∧ unmappedAddr s a.toNat)) →
      ∃ c, busEvent (.read 4 a) s = .next { s with readLog := 0#32 :: s.readLog, freeCount := c }) ∧
    (∀ a : Word, a.toNat % 4 = 0 →
      ∃ v c, busEvent (.read 4 a) s = .next { s with readLog := v :: s.readLog, freeCount := c })

/-- No host read, busy or idle, has a side effect: only the record of reads grows, by one value (R54). (The record and the count of
open values are the model's own: logs 5 and 7.) -/
def Obligations.ReadsHaveNoSideEffect : Prop :=
  ∀ (s t : State) (width : Nat) (a : Word), busEvent (.read width a) s = .next t →
    ∃ v c, t = { s with readLog := v :: s.readLog, freeCount := c }

/-- An access that is not 32 bits wide, or not at a multiple of 4, is refused (R52); so is a second bus
master's (R63; spec/93_implementation_defined.md section 2). (Under which name, and that the width is looked
at first, is the model's choice: log 12.) -/
def Obligations.AccessOutsideTheContractIsRefused : Prop :=
  ∀ (s : State) (width : Nat) (a data : Word),
    (width ≠ 4 → busEvent (.read width a) s = .refused .accessWidth ∧
      busEvent (.write width a data) s = .refused .accessWidth) ∧
    (a.toNat % 4 ≠ 0 → busEvent (.read 4 a) s = .refused .misaligned ∧
      busEvent (.write 4 a data) s = .refused .misaligned) ∧
    busEvent .otherMaster s = .refused .secondMaster

/-! ### Reset -/

/-- The values the spec gives for reset, at `State.reset` and after a reset from any state, a command in
flight abandoned; the parameters are kept (R220(a), (c)). -/
def Obligations.ResetGivesTheStatedValues : Prop :=
  ResetRegisters State.reset ∧
  ∀ s : State, ∃ t, busEvent .reset s = .next t ∧ ResetRegisters t ∧
    t.nseqCap = s.nseqCap ∧ t.pcmCap = s.pcmCap

/-- R222: nothing runs after reset; the engine waits for a write to CMD. More generally an idle block
with nothing from outside stays as it is (R205). That such a step happens and changes nothing is the
model's choice (log 5). -/
def Obligations.NothingRunsAfterReset : Prop :=
  step State.reset = .next State.reset ∧
  ∀ s : State, s.status.busy = false → s.pending = [] → step s = .next s

/-! ### Invariants and safety -/

/-- The invariant holds at reset. (That memory lists nothing and the engine's hidden state is 0 there are
the model's choices: logs 4 and 8.) -/
def Obligations.InvariantHoldsAtReset : Prop := Inv State.reset

/-- Every step keeps the invariant: canonical memory inside its windows, reserved bits 0, a status that is
clean while busy, an axis that is never stale, and the facts the first step of a SYNTH checked (`phase`:
log 9; that the axis already stands between the sample steps: log 14). -/
def Obligations.StepKeepsTheInvariant : Prop :=
  ∀ s t : State, Inv s → step s = .next t → Inv t

/-- From a good state no step faults: the engine makes no access outside what exists (R59; the faults are
those of log 11). And no error can arise after the first step of a SYNTH (R160): an engine step of one that
has passed its checks leaves ECODE 0 (`phase`: log 9). -/
def Obligations.NoStepFromAGoodStateFaults : Prop :=
  (∀ (s : State) (f : Fault), Inv s → step s ≠ .fault f) ∧
  ∀ s t : State, Inv s → s.turn = .engine → s.eng.phase = .generate → step s = .next t → t.status.ecode = 0#4

/-- A step is refused only for an access outside the contract (R52, R63): no command is refused. -/
def Obligations.RefusalsAreOutsideTheContract : Prop :=
  ∀ (s : State) (r : Refusal), step s = .refused r →
    ∃ ev, s.pending.head? = some ev ∧ ev.inContract = false

/-- Every accepted command completes after finitely many events, whatever accesses the host interleaves and
however the scheduler spreads them, unless a reset abandons it first (R241, R220(c)). Its completion leaves
DONE 1, or for CLEAR DONE 0. (`pending` and `gaps`: log 5.) -/
def Obligations.EveryAcceptedCommandCompletes : Prop :=
  ∀ s : State, Inv s → s.status.busy = true → (∀ ev ∈ s.pending, ev.inContract = true) →
    ∃ (k : Nat) (t : State), Sys2Proof.core.run k s = .next t ∧ t.status.busy = false ∧
      (BusEvent.reset ∉ s.pending → (t.status.done = false ↔ decode s.eng.cw = .ok .clear))

/-! ### Arithmetic, the time axis and the samples -/

/-- R100: the ROM's contents, and that entry `i` is the binary64 value nearest to 440 × 2^((i - 10) / 12). -/
def Obligations.PitchRomIsNearestToEqualTemperament : Prop :=
  promTable =
    [ 0x0000000000000000#64, 0x40705A0250C2B956#64, 0x407152EC0E758E6F#64, 0x40725AA2E3AF0B21#64,
      0x4073720820155764#64, 0x40749A0A791E127B#64, 0x4075D3A6D600CABC#64, 0x40771FE927CA0DE9#64,
      0x40787FED4E47ADFF#64, 0x4079F4E00A91D08E#64, 0x407B800000000000#64, 0x407D229EC465C8A2#64,
      0x407EDE22007F791A#64 ] ∧
  ∀ (i : Nat) (f y : F64), 1 ≤ i → i ≤ 12 → promTable[i]? = some f → isFinite y = true →
    isFinite f = true ∧
    |((f64Rat f : ℚ) : ℝ) - 440 * (2 : ℝ) ^ (((i : ℝ) - 10) / 12)| ≤
      |((f64Rat y : ℚ) : ℝ) - 440 * (2 : ℝ) ^ (((i : ℝ) - 10) / 12)|

/-- The four operations, of finite operands, round the exact result to nearest, ties to even (R10): finite
exactly when its magnitude is below the overflow limit, and otherwise the infinity of its sign (the cases of
IEEE 754 that R10 does not spell out: log 13). A division by zero is not in it. -/
def Obligations.ArithmeticRoundsToNearestEven : Prop :=
  ∀ a b : F64, isFinite a = true → isFinite b = true →
    RoundsTo (add64 a b) (f64Rat a + f64Rat b) ∧ RoundsTo (sub64 a b) (f64Rat a - f64Rat b) ∧
    RoundsTo (mul64 a b) (f64Rat a * f64Rat b) ∧
    (isZero b = false → RoundsTo (div64 a b) (f64Rat a / f64Rat b))

/-- R11: `rte` is the nearest integer, ties to the even one, with the rule's four examples; and `floor64` of
a finite value is finite and exactly its floor (R10). -/
def Obligations.RoundingToIntegersIsExact : Prop :=
  (∀ a : F64, isFinite a = true → isFinite (floor64 a) = true ∧ f64Rat (floor64 a) = (⌊f64Rat a⌋ : ℚ)) ∧
  (∀ a : F64, isFinite a = true →
    |f64Rat a - (rte a : ℚ)| ≤ 1 / 2 ∧ (|f64Rat a - (rte a : ℚ)| = 1 / 2 → rte a % 2 = 0)) ∧
  rte 0x40DAEAA000000000#64 = 27562 ∧ rte 0x3FE0000000000000#64 = 0 ∧
  rte 0x40CFFFC000000000#64 = 16384 ∧ rte 0xC0CFFFC000000000#64 = -16384

/-- R13: what every SIN64 meets. -/
def Obligations.SineMeetsItsLimits : Prop :=
  sin64 0x0000000000000000#64 = 0x0000000000000000#64 ∧
  (∀ a : F64, isFinite a = true →
    isFinite (sin64 a) = true ∧ le64 0xBFF0000000000000#64 (sin64 a) = true ∧
      le64 (sin64 a) 0x3FF0000000000000#64 = true) ∧
  (∀ a b : F64, a = b → sin64 a = sin64 b)

/-- R110: when a tempo is invalid, and the axis of a valid one; its duration is positive and finite, and so
is its tempo (R115(a)). -/
def Obligations.TempoIsInvalidExactlyAsStated : Prop :=
  ∀ b : F64,
    let d := div64 0x404E000000000000#64 b
    let y := mul64 0x40E5888000000000#64 d
    (axis b = none ↔
      isNaN b = true ∨ le64 b 0#64 = true ∨ isFinite y = false ∨ rte y < 1 ∨ 2 ^ 32 - 1 < rte y) ∧
    (∀ e n, axis b = some (e, n) → e = d ∧ (n : Int) = rte y ∧
      isFinite d = true ∧ lt64 0#64 d = true ∧ isFinite b = true ∧ lt64 0#64 b = true)

/-- The time axis of R111: sample 0 is at +0.0 (the only one of an axis of one), the last at exactly DUR, and
sample `k` between them at the product of `f64(k)` and the rounded step `DUR / f64(N - 1)`, `f64` being exact
(R10); and it rises strictly (R115(b), (c)). -/
def Obligations.TimeAxisRisesStrictly : Prop :=
  (∀ m : Nat, m < 2 ^ 32 → isFinite (f64OfNat m) = true ∧ f64Neg (f64OfNat m) = false ∧ f64Rat (f64OfNat m) = m) ∧
  (∀ d : F64, timeValue 0 d 1 = 0#64) ∧
  (∀ (k : Nat) (d : F64) (n : Nat), 0 < k → k + 1 < n →
    timeValue k d n = mul64 (f64OfNat k) (div64 d (f64OfNat (n - 1)))) ∧
  ∀ (b d : F64) (n : Nat), axis b = some (d, n) →
    timeValue 0 d n = 0#64 ∧ (2 ≤ n → timeValue (n - 1) d n = d) ∧
      ∀ k, k + 1 < n → lt64 (timeValue k d n) (timeValue (k + 1) d n) = true

/-- The first sample of every note that is not a rest: 0 for the sine, +1 for a pulse of positive duty, -1
for a sawtooth of positive width and +1 for one of width 0 (R131, R135 to R137). -/
def Obligations.FirstSampleOfANote : Prop :=
  ∀ (c : Nat) (f u : F64), 1 ≤ c → c ≤ 12 → promTable[c]? = some f → isFinite u = true →
    sineSample f 0#64 = 0#64 ∧
    (lt64 0#64 u = true → pulseSample f 0#64 u = 0x3FF0000000000000#64) ∧
    (lt64 0#64 u = true → sawSample f 0#64 u = 0xBFF0000000000000#64) ∧
    (isZero u = true → sawSample f 0#64 u = 0x3FF0000000000000#64)

/-- A pulse of duty at most 0 is always -1, and of duty at least 1 always +1 (R136, R140). -/
def Obligations.PulseDegeneratesToAConstant : Prop :=
  ∀ (c : Nat) (f b d u : F64) (n k : Nat), 1 ≤ c → c ≤ 12 → promTable[c]? = some f →
    axis b = some (d, n) → k < n → isFinite u = true →
    (le64 u 0#64 = true → pulseSample f (timeValue k d n) u = 0xBFF0000000000000#64) ∧
    (le64 0x3FF0000000000000#64 u = true → pulseSample f (timeValue k d n) u = 0x3FF0000000000000#64)

/-- R139: every oscillator sample is finite and lies in [-1.0, 1.0], for every shape, note, valid axis and
finite shape parameter. -/
def Obligations.OscillatorSamplesLieInTheUnitRange : Prop :=
  ∀ (w : Wave) (c : Nat) (f b d : F64) (n k : Nat) (s : State), c ≤ 12 → promTable[c]? = some f →
    axis b = some (d, n) → k < n → shapeParamOk w s = true →
    isFinite (oscSample w c f (timeValue k d n) s) = true ∧
      le64 0xBFF0000000000000#64 (oscSample w c f (timeValue k d n) s) = true ∧
      le64 (oscSample w c f (timeValue k d n) s) 0x3FF0000000000000#64 = true

/-- The function of R150: a NaN gives 0; otherwise the product with 32767.0 is an infinity, which gives the
end of the range on its side, or finite, and then is rounded by `rte` and clamped. So no input wraps: every
value quantizes into the 16-bit range, samples in [-1, 1] never reach -32768; the exact values of R152(a)
and the corner cases of R151 (R150, R152(a), (b), (f)). -/
def Obligations.QuantizerNeverWraps : Prop :=
  (∀ a : F64, isNaN a = true → quant a = 0) ∧
  (∀ a : F64, isNaN a = false →
    let y := mul64 a 0x40DFFFC000000000#64
    (isFinite y = true ∨ y = 0x7FF0000000000000#64 ∨ y = 0xFFF0000000000000#64) ∧
    (y = 0x7FF0000000000000#64 → quant a = 32767) ∧ (y = 0xFFF0000000000000#64 → quant a = -32768) ∧
    (isFinite y = true → quant a = min (max (rte y) (-32768)) 32767)) ∧
  (∀ a : F64, -32768 ≤ quant a ∧ quant a ≤ 32767) ∧
  (∀ a : F64, le64 0xBFF0000000000000#64 a = true → le64 a 0x3FF0000000000000#64 = true →
    -32767 ≤ quant a ∧ quant a ≤ 32767) ∧
  quant 0x3FF0000000000000#64 = 32767 ∧ quant 0xBFF0000000000000#64 = -32767 ∧
  quant 0x0000000000000000#64 = 0 ∧ quant 0x8000000000000000#64 = 0 ∧
  quant 0x3FE0000000000000#64 = 16384 ∧ quant 0xBFE0000000000000#64 = -16384 ∧
  quant 0x3FF8000000000000#64 = 32767 ∧ quant 0xC000000000000000#64 = -32768 ∧
  quant 0x7FF0000000000000#64 = 32767 ∧ quant 0xFFF0000000000000#64 = -32768

/-- The quantizer is monotone (R152(c)). -/
def Obligations.QuantizerIsMonotone : Prop := ∀ a b : F64, le64 a b = true → quant a ≤ quant b

/-- The samples by their formulas. `TWO_PI` is the binary64 value nearest to 2π (R12), and the sine's argument
is `TWO_PI × f × t` from left to right (R131). For a product `x = f × t` that is finite and not negative, as
it is for every note and every time of a valid axis, the phase is exactly the fractional part of `x`, in
[0, 1): the pulse is +1 exactly when it is below the duty (R132), and the sawtooth is the rising ramp below
the width and the falling ramp from it on, operation by operation (R133). -/
def Obligations.SamplesFollowTheirFormulas : Prop :=
  (∀ y : F64, isFinite y = true →
    |((f64Rat 0x401921FB54442D18#64 : ℚ) : ℝ) - 2 * Real.pi| ≤ |((f64Rat y : ℚ) : ℝ) - 2 * Real.pi|) ∧
  (∀ f t : F64, sineSample f t = sin64 (mul64 (mul64 0x401921FB54442D18#64 f) t)) ∧
  (∀ (c : Nat) (f b d : F64) (n k : Nat), 1 ≤ c → c ≤ 12 → promTable[c]? = some f → axis b = some (d, n) →
    k < n → isFinite (mul64 f (timeValue k d n)) = true ∧ le64 0#64 (mul64 f (timeValue k d n)) = true) ∧
  ∀ f t : F64, isFinite (mul64 f t) = true → le64 0#64 (mul64 f t) = true →
    ∃ p : F64, isFinite p = true ∧ f64Neg p = false ∧ f64Rat p = Int.fract (f64Rat (mul64 f t)) ∧
      0 ≤ f64Rat p ∧ f64Rat p < 1 ∧
      (∀ u : F64, isFinite u = true →
        pulseSample f t u = if f64Rat p < f64Rat u then 0x3FF0000000000000#64 else 0xBFF0000000000000#64) ∧
      (∀ w : F64, isFinite w = true →
        sawSample f t w =
          if f64Rat p < f64Rat w then
            sub64 (mul64 0x4000000000000000#64 (div64 p w)) 0x3FF0000000000000#64
          else
            sub64 0x3FF0000000000000#64
              (mul64 0x4000000000000000#64 (div64 (sub64 p w) (sub64 0x3FF0000000000000#64 w))))
end

