-- ==== Sys2Proof/Laws/Float64.lean ====
section
/-! SUPPORT. The laws of rounding: it is nearest with ties to even, monotone, and exact on what is
representable. Every range fact about a sample follows from these. -/

namespace Sys2Proof.Machine

/-! ### Fields of a packed value -/

theorem infMag_eq : infMag = 2047 * 2 ^ 52 := rfl

@[simp] theorem f64Mag_packF64 (neg : Bool) {m : Nat} (h : m ≤ infMag) : f64Mag (packF64 neg m) = m := by
  have := infMag_eq
  cases neg <;> simp [f64Mag, packF64, BitVec.toNat_ofNat] <;> omega

@[simp] theorem f64Neg_packF64 (neg : Bool) {m : Nat} (h : m ≤ infMag) : f64Neg (packF64 neg m) = neg := by
  have := infMag_eq
  cases neg <;> simp [f64Neg, packF64, BitVec.toNat_ofNat] <;> omega

/-! ### roundNearestEven (R11) -/

/-- The rounded number is within a half, from both sides. -/
theorem roundNearestEven_close (num : Nat) {den : Nat} (hd : 0 < den) :
    2 * num ≤ 2 * (roundNearestEven num den * den) + den ∧
      2 * (roundNearestEven num den * den) ≤ 2 * num + den := by
  have hdm := Nat.div_add_mod num den
  have hr := Nat.mod_lt num hd
  have hm : den * (num / den) = num / den * den := Nat.mul_comm _ _
  have hq : num / den % 2 = 0 ∨ num / den % 2 = 1 := by omega
  unfold roundNearestEven
  simp only
  split
  · omega
  · split
    · rw [Nat.add_mul]; omega
    · rw [Nat.add_mul]
      rcases hq with h | h <;> rw [h] <;> omega

/-- At exactly a half, the rounded number is even. -/
theorem roundNearestEven_tie (num : Nat) {den : Nat} (hd : 0 < den)
    (h : 2 * num = 2 * (roundNearestEven num den * den) + den ∨
      2 * (roundNearestEven num den * den) = 2 * num + den) : roundNearestEven num den % 2 = 0 := by
  have hdm := Nat.div_add_mod num den
  have hr := Nat.mod_lt num hd
  have hm : den * (num / den) = num / den * den := Nat.mul_comm _ _
  revert h
  unfold roundNearestEven
  simp only
  split
  · omega
  · split
    · rw [Nat.add_mul]; omega
    · intro _; omega

/-- A whole number rounds to itself. -/
theorem roundNearestEven_exact (k : Nat) {den : Nat} (hd : 0 < den) : roundNearestEven (k * den) den = k := by
  simp [roundNearestEven, Nat.mul_div_cancel _ hd, hd]

/-- Rounding is monotone in the quotient. -/
theorem roundNearestEven_mono {n1 d1 n2 d2 : Nat} (h1 : 0 < d1) (h2 : 0 < d2) (h : n1 * d2 ≤ n2 * d1) :
    roundNearestEven n1 d1 ≤ roundNearestEven n2 d2 := by
  by_contra hlt
  push Not at hlt
  obtain ⟨-, c1⟩ := roundNearestEven_close n1 h1
  obtain ⟨c2, -⟩ := roundNearestEven_close n2 h2
  have t1 := roundNearestEven_tie n1 h1
  have t2 := roundNearestEven_tie n2 h2
  generalize roundNearestEven n1 d1 = r1 at *
  generalize roundNearestEven n2 d2 = r2 at *
  -- (2 r1 - 1) d1 ≤ 2 n1 and 2 n2 ≤ (2 r2 + 1) d2, so r1 = r2 + 1 and both are ties
  have e1 : 2 * (r1 * d1) * d2 ≤ 2 * n1 * d2 + d1 * d2 := by
    have := Nat.mul_le_mul_right d2 c1; rwa [Nat.add_mul] at this
  have e2 : 2 * n2 * d1 ≤ 2 * (r2 * d2) * d1 + d2 * d1 := by
    have := Nat.mul_le_mul_right d1 c2; rwa [Nat.add_mul] at this
  have e3 : 2 * n1 * d2 ≤ 2 * n2 * d1 := by nlinarith
  have e4 : (2 * r1) * (d1 * d2) ≤ (2 * r2 + 2) * (d1 * d2) := by nlinarith
  have hr : 2 * r1 ≤ 2 * r2 + 2 := Nat.le_of_mul_le_mul_right e4 (Nat.mul_pos h1 h2)
  have hr1 : r1 = r2 + 1 := by omega
  subst hr1
  have f1 : 2 * ((r2 + 1) * d1) * d2 = 2 * n1 * d2 + d1 * d2 := by nlinarith
  have f2 : 2 * n2 * d1 = 2 * (r2 * d2) * d1 + d2 * d1 := by nlinarith
  have g1 : 2 * ((r2 + 1) * d1) = 2 * n1 + d1 := by
    apply Nat.eq_of_mul_eq_mul_right h2; rw [f1, Nat.add_mul]
  have g2 : 2 * n2 = 2 * (r2 * d2) + d2 := by
    apply Nat.eq_of_mul_eq_mul_right h1; rw [f2, Nat.add_mul]
  have := t1 (.inr g1)
  have := t2 (.inl g2)
  omega

/-! ### Magnitudes in units of 2^-1074 -/

/-- Below 2^52 a magnitude is subnormal and is its own number of units. -/
theorem unitsOfMag_subnormal {m : Nat} (h : m < 2 ^ 52) : unitsOfMag m = m := by
  unfold unitsOfMag; rw [if_pos (by omega)]; omega

/-- From 2^52 on, a magnitude is a mantissa and a shift. -/
theorem unitsOfMag_normal {m : Nat} (h : 2 ^ 52 ≤ m) :
    unitsOfMag m = (2 ^ 52 + m % 2 ^ 52) * 2 ^ (m / 2 ^ 52 - 1) := by
  unfold unitsOfMag; rw [if_neg (by omega)]

/-- A mantissa of 53 bits and a shift: its magnitude bits. -/
theorem unitsOfMag_mantissa {f e : Nat} (hf : 2 ^ 52 ≤ f) (hf' : f < 2 ^ 53) :
    unitsOfMag (e * 2 ^ 52 + f) = f * 2 ^ e := by
  rw [unitsOfMag_normal (by omega)]
  have h1 : (e * 2 ^ 52 + f) / 2 ^ 52 = e + 1 := by omega
  have h2 : (e * 2 ^ 52 + f) % 2 ^ 52 = f - 2 ^ 52 := by omega
  rw [h1, h2, Nat.add_sub_cancel, show 2 ^ 52 + (f - 2 ^ 52) = f by omega]

theorem unitsOfMag_zero : unitsOfMag 0 = 0 := rfl

/-- The next magnitude is a larger number. -/
theorem unitsOfMag_lt_succ (m : Nat) : unitsOfMag m < unitsOfMag (m + 1) := by
  by_cases h : m < 2 ^ 52
  · rw [unitsOfMag_subnormal h]
    by_cases h' : m + 1 < 2 ^ 52
    · rw [unitsOfMag_subnormal h']; omega
    · obtain rfl : m = 2 ^ 52 - 1 := by omega
      decide
  · have e0 : m = (m / 2 ^ 52 - 1) * 2 ^ 52 + (2 ^ 52 + m % 2 ^ 52) := by omega
    generalize hE : m / 2 ^ 52 - 1 = E at e0
    generalize hF : 2 ^ 52 + m % 2 ^ 52 = F at e0
    have hF1 : 2 ^ 52 ≤ F := by omega
    have hF2 : F < 2 ^ 53 := by omega
    have hp : 0 < 2 ^ E := Nat.two_pow_pos E
    rw [e0, unitsOfMag_mantissa hF1 hF2]
    by_cases hc : F + 1 < 2 ^ 53
    · rw [Nat.add_assoc, unitsOfMag_mantissa (by omega) hc]
      exact Nat.mul_lt_mul_of_pos_right (by omega) hp
    · obtain rfl : F = 2 ^ 53 - 1 := by omega
      rw [show E * 2 ^ 52 + (2 ^ 53 - 1) + 1 = (E + 1) * 2 ^ 52 + 2 ^ 52 by omega,
        unitsOfMag_mantissa (by omega) (by omega), Nat.pow_succ 2 E]
      generalize 2 ^ E = P at hp ⊢
      omega

theorem unitsOfMag_strictMono : StrictMono unitsOfMag := strictMono_nat_of_lt_succ unitsOfMag_lt_succ

/-! ### roundMag: the rounding of every operation (R10) -/

/-- The shift of `roundMag`: the quotient is below 2^(shift + 53), and at least 2^(shift + 52) unless the
shift is 0. -/
theorem roundMag_shift (num : Nat) {den : Nat} (hd : 0 < den) :
    num < 2 ^ 53 * (den * 2 ^ (Nat.log2 (num / den) - 52)) ∧
      (0 < Nat.log2 (num / den) - 52 → 2 ^ 52 * (den * 2 ^ (Nat.log2 (num / den) - 52)) ≤ num) := by
  generalize hq : num / den = q
  have hle : q * den ≤ num := hq ▸ Nat.div_mul_le_self num den
  have hlt : num < (q + 1) * den := by
    have := Nat.lt_div_mul_add (a := num) hd; rw [hq] at this; rw [Nat.add_mul]; omega
  have hup : q < 2 ^ (Nat.log2 q + 1) := Nat.lt_log2_self
  constructor
  · have h53 : q + 1 ≤ 2 ^ 53 * 2 ^ (Nat.log2 q - 52) := by
      rw [← pow_add]
      exact le_trans hup (Nat.pow_le_pow_right (by norm_num) (by omega))
    calc num < (q + 1) * den := hlt
      _ ≤ 2 ^ 53 * 2 ^ (Nat.log2 q - 52) * den := Nat.mul_le_mul_right _ h53
      _ = _ := by ring
  · intro hs
    have hq0 : q ≠ 0 := by rintro rfl; simp at hs
    have hlow : 2 ^ Nat.log2 q ≤ q := Nat.log2_self_le hq0
    have h52 : 2 ^ 52 * 2 ^ (Nat.log2 q - 52) ≤ q := by
      rw [← pow_add, show 52 + (Nat.log2 q - 52) = Nat.log2 q by omega]; exact hlow
    calc 2 ^ 52 * (den * 2 ^ (Nat.log2 q - 52)) = 2 ^ 52 * 2 ^ (Nat.log2 q - 52) * den := by ring
      _ ≤ q * den := Nat.mul_le_mul_right _ h52
      _ ≤ num := hle

/-- What is representable rounds to itself. -/
theorem roundMag_exact {m : Nat} (hm : m ≤ infMag) {den : Nat} (hd : 0 < den) :
    roundMag (unitsOfMag m * den) den = m := by
  unfold roundMag
  rw [Nat.mul_div_cancel _ hd]
  by_cases h : m < 2 ^ 52
  · rw [unitsOfMag_subnormal h]
    have hs : Nat.log2 m - 52 = 0 := by
      by_cases h0 : m = 0
      · subst h0; simp
      · have := (Nat.log2_lt h0).2 h; omega
    simp only [hs, pow_zero, Nat.mul_one, Nat.zero_mul, Nat.zero_add]
    rw [roundNearestEven_exact _ hd]; omega
  · have e0 : m = (m / 2 ^ 52 - 1) * 2 ^ 52 + (2 ^ 52 + m % 2 ^ 52) := by omega
    generalize hE : m / 2 ^ 52 - 1 = E at e0
    generalize hF : 2 ^ 52 + m % 2 ^ 52 = F at e0
    have hF1 : 2 ^ 52 ≤ F := by omega
    have hF2 : F < 2 ^ 53 := by omega
    have hu : unitsOfMag m = F * 2 ^ E := by rw [e0, unitsOfMag_mantissa hF1 hF2]
    have hlog : Nat.log2 (F * 2 ^ E) - 52 = E := by
      have hpos : F * 2 ^ E ≠ 0 := by have := Nat.two_pow_pos E; positivity
      have h1 : 52 + E ≤ Nat.log2 (F * 2 ^ E) := by
        rw [Nat.le_log2 hpos, pow_add]; exact Nat.mul_le_mul_right _ hF1
      have h2 : Nat.log2 (F * 2 ^ E) < 53 + E := by
        rw [Nat.log2_lt hpos, pow_add]; exact Nat.mul_lt_mul_of_pos_right hF2 (Nat.two_pow_pos E)
      omega
    simp only [hu, hlog]
    rw [show F * 2 ^ E * den = F * (den * 2 ^ E) by ring,
      roundNearestEven_exact _ (Nat.mul_pos hd (Nat.two_pow_pos E)), ← e0]
    omega

/-- Rounding is monotone in the quotient. -/
theorem roundMag_mono {n1 d1 n2 d2 : Nat} (h1 : 0 < d1) (h2 : 0 < d2) (h : n1 * d2 ≤ n2 * d1) :
    roundMag n1 d1 ≤ roundMag n2 d2 := by
  have hq : n1 / d1 ≤ n2 / d2 := by
    rw [Nat.le_div_iff_mul_le h2]
    have : n1 / d1 * d2 * d1 ≤ n2 * d1 := by
      calc n1 / d1 * d2 * d1 = n1 / d1 * d1 * d2 := by ring
        _ ≤ n1 * d2 := Nat.mul_le_mul_right _ (Nat.div_mul_le_self _ _)
        _ ≤ _ := h
    exact Nat.le_of_mul_le_mul_right this h1
  have hlog : Nat.log2 (n1 / d1) ≤ Nat.log2 (n2 / d2) := by
    by_cases h0 : n1 / d1 = 0
    · rw [h0]; simp
    · rw [Nat.le_log2 (by have := Nat.pos_of_ne_zero h0; omega)]; exact le_trans (Nat.log2_self_le h0) hq
  obtain ⟨hb1, -⟩ := roundMag_shift n1 h1
  obtain ⟨-, hb2⟩ := roundMag_shift n2 h2
  have hs : Nat.log2 (n1 / d1) - 52 ≤ Nat.log2 (n2 / d2) - 52 := Nat.sub_le_sub_right hlog 52
  unfold roundMag
  simp only
  generalize Nat.log2 (n1 / d1) - 52 = s1 at *
  generalize Nat.log2 (n2 / d2) - 52 = s2 at *
  have hp1 : 0 < d1 * 2 ^ s1 := Nat.mul_pos h1 (Nat.two_pow_pos s1)
  have hp2 : 0 < d2 * 2 ^ s2 := Nat.mul_pos h2 (Nat.two_pow_pos s2)
  apply min_le_min_right
  rcases Nat.lt_or_eq_of_le hs with hlt | rfl
  · have c1 : roundNearestEven n1 (d1 * 2 ^ s1) ≤ 2 ^ 53 := by
      have := roundNearestEven_mono (n2 := 2 ^ 53 * (d1 * 2 ^ s1)) hp1 hp1 (Nat.mul_le_mul_right _ hb1.le)
      rwa [roundNearestEven_exact _ hp1] at this
    have c2 : 2 ^ 52 ≤ roundNearestEven n2 (d2 * 2 ^ s2) := by
      have := roundNearestEven_mono (n1 := 2 ^ 52 * (d2 * 2 ^ s2)) hp2 hp2
        (Nat.mul_le_mul_right _ (hb2 (by omega)))
      rwa [roundNearestEven_exact _ hp2] at this
    omega
  · apply Nat.add_le_add_left
    apply roundNearestEven_mono hp1 hp2
    calc n1 * (d2 * 2 ^ s1) = n1 * d2 * 2 ^ s1 := by ring
      _ ≤ n2 * d1 * 2 ^ s1 := Nat.mul_le_mul_right _ h
      _ = _ := by ring

theorem roundMag_le_infMag (num den : Nat) : roundMag num den ≤ infMag := min_le_right _ _

/-- At most a representable magnitude before rounding, at most it after. -/
theorem roundMag_le {num den m : Nat} (hd : 0 < den) (hm : m ≤ infMag) (h : num ≤ unitsOfMag m * den) :
    roundMag num den ≤ m := by
  have := roundMag_mono (n1 := num) (n2 := unitsOfMag m * den) hd hd (Nat.mul_le_mul_right _ h)
  rwa [roundMag_exact hm hd] at this

/-- At least a representable magnitude before rounding, at least it after. -/
theorem le_roundMag {num den m : Nat} (hd : 0 < den) (hm : m ≤ infMag) (h : unitsOfMag m * den ≤ num) :
    m ≤ roundMag num den := by
  have := roundMag_mono (n1 := unitsOfMag m * den) (n2 := num) hd hd (Nat.mul_le_mul_right _ h)
  rwa [roundMag_exact hm hd] at this

end Sys2Proof.Machine
end

