-- ==== Sys2Proof/Tests/Slice0.lean ====
section
/-! SUPPORT. The model's own tests: the checks of WellFormed, every command's word, single steps against
the values of spec/95_test_vectors.md, and for each statement with hypotheses a witness that meets them. -/

open Sys2Proof Sys2Proof.Machine

namespace Sys2Proof.Tests

-- One theorem at a time: many kernel evaluations at once take more threads than the check allows.
set_option Elab.async false

/-! ### Helpers -/

/-- The next state, if the outcome is one. -/
def next? (o : Host.Outcome State Fault Refusal) : Option State :=
  match o with
  | .next t => some t
  | .fault _ => none
  | .refused _ => none

/-- A next state of which `p` holds. -/
theorem next_with {o : Host.Outcome State Fault Refusal} (p : State → Bool)
    (h : (next? o).map p = some true) : ∃ t, o = .next t ∧ p t = true := by
  cases o with
  | next t => exact ⟨t, rfl, by simpa [next?] using h⟩
  | fault f => simp [next?] at h
  | refused r => simp [next?] at h

/-- After reset, with `NSEQ_DEPTH = 4` and `PCM_DEPTH = 21`. -/
def idle : State := { State.reset with nseqCap := 4#32, pcmCap := 21#32 }

/-- As `idle`, with the time axis of the tempo 120.0. -/
def ready : State :=
  { idle with
    dur := 0x3FE0000000000000#64
    nsamp := 22050#32
    status := { idle.status with axv := true } }

/-- Program P4 of spec/95_test_vectors.md: the notes A R at the tempo 264600.0, ten samples each. -/
def short : State :=
  { idle with
    bpm := 0x4110266000000000#64
    ncount := 2#13
    mem := [(0x1000, 10#8), (0x1001, 0#8)] }

/-- The engine's next step, with the command `w` accepted in state `s`. -/
def runWord (w : Word) (s : State) : Option State := next? (step (s.accept w))

/-- Program P4 between sample steps: SYNTH with the shape bits of `w` in flight, at note `np`, sample `kp`. -/
def midway (w : Word) (np kp : Nat) : State :=
  { short with
    dur := 0x3F2DB8B6F9266DD5#64
    nsamp := 10#32
    status := { busy := true, done := false, wbusy := false, axv := true, ecode := 0#4 }
    eng := { cw := w, np := np, kp := kp, n := 10, phase := .generate } }

/-- A command in flight, the engine next. -/
def busyWith (w : Word) : State := ready.accept w

/-! ### WellFormed -/

theorem test_wf_refuses_plookup_16 : (Instr.plookup 16).wf = false := by decide
theorem test_wf_refuses_oscSin_16 : (Instr.oscSin 16).wf = false := by decide
theorem test_wf_refuses_oscPul_16 : (Instr.oscPul 16).wf = false := by decide
theorem test_wf_refuses_oscSaw_16 : (Instr.oscSaw 16).wf = false := by decide
theorem test_wf_refuses_oscSh3_16 : (Instr.oscSh3 16).wf = false := by decide
theorem test_wf_takes_code_15 : (Instr.plookup 15).wf = true := by decide

/-! ### Decoding, each word written from the table of spec/30_encoding.md R85 -/

theorem test_decode_nop : decode 0x00000000#32 = .ok .nop := by decide
theorem test_decode_plookup : decode 0x1000000C#32 = .ok (.plookup 12) := by decide
theorem test_decode_tquant : decode 0x20000000#32 = .ok .tquant := by decide
theorem test_decode_oscSin : decode 0x30000003#32 = .ok (.oscSin 3) := by decide
theorem test_decode_oscPul : decode 0x30000015#32 = .ok (.oscPul 5) := by decide
theorem test_decode_oscSaw : decode 0x30000022#32 = .ok (.oscSaw 2) := by decide
theorem test_decode_oscSh3 : decode 0x3000003F#32 = .ok (.oscSh3 15) := by decide
theorem test_decode_pcmq : decode 0x40000000#32 = .ok .pcmq := by decide
theorem test_decode_synthSin : decode 0x50000000#32 = .ok .synthSin := by decide
theorem test_decode_synthPul : decode 0x50000010#32 = .ok .synthPul := by decide
theorem test_decode_synthSaw : decode 0x50000020#32 = .ok .synthSaw := by decide
theorem test_decode_synthSh3 : decode 0x50000030#32 = .ok .synthSh3 := by decide
theorem test_decode_clear : decode 0x60000000#32 = .ok .clear := by decide
/-- The illegal words of spec/95_test_vectors.md section 2.7. -/
theorem test_decode_illegal :
    decode 0x00000001#32 = .error .reservedOpcode ∧ decode 0x70000000#32 = .error .reservedOpcode ∧
    decode 0xF0000000#32 = .error .reservedOpcode ∧ decode 0x20000001#32 = .error .noteBits ∧
    decode 0x40000020#32 = .error .shapeBits ∧ decode 0x30000040#32 = .error .reservedBits ∧
    decode 0x6000000F#32 = .error .noteBits ∧ decode 0x1000100A#32 = .error .reservedBits ∧
    decode 0x10000010#32 = .error .shapeBits ∧ decode 0x50000001#32 = .error .noteBits := by decide
theorem test_table_word : decodeTableWord 32 0x30000022 = some (.oscSaw 2) := by decide

/-! ### One step, against spec/95_test_vectors.md sections 2 and 3 -/

theorem test_plookup_a : (runWord 0x1000000A#32 ready).map (fun t => (t.freq, t.status.word)) =
    some (0x407B800000000000#64, 0x0000000A#32) := by decide +kernel
theorem test_plookup_13 : (runWord 0x1000000D#32 ready).map (fun t => (t.freq, t.status.word, t.errinfo)) =
    some (0#64, 0x0000010A#32, 0x000D0000#32) := by decide +kernel
theorem test_tquant_tie_to_even :
    (runWord 0x20000000#32 { idle with bpm := 0x4058000000000000#64 }).map (fun t => (t.dur, t.nsamp, t.status.word)) =
      some (0x3FE4000000000000#64, 0x6BAA#32, 0x0000000A#32) := by decide +kernel
theorem test_tquant_too_slow :
    (runWord 0x20000000#32 { ready with bpm := 0x3F442FF8000A17FB#64 }).map (fun t => (t.nsamp, t.status.word)) =
      some (22050#32, 0x00000202#32) := by decide +kernel
theorem test_oscSin_starts_at_zero : (runWord 0x3000000A#32 ready).map (fun t => (t.freq, t.sample, t.status.word)) =
    some (0x407B800000000000#64, 0#64, 0x0000000A#32) := by decide +kernel
theorem test_oscSin_axis_first : (runWord 0x3000000A#32 idle).map (fun t => t.status.word) =
    some 0x00000702#32 := by decide +kernel
theorem test_oscPul_low : (runWord 0x3000001A#32 { ready with kidx := 60#32 }).map (fun t => t.sample) =
    some 0xBFF0000000000000#64 := by decide +kernel
theorem test_oscPul_rest_nan_duty :
    (runWord 0x30000010#32 { ready with duty := 0x7FF8000000000000#64 }).map (fun t => t.status.word) =
      some 0x0000040A#32 := by decide +kernel
theorem test_oscSaw_30 : (runWord 0x3000002A#32 { ready with kidx := 30#32 }).map (fun t => t.sample) =
    some 0x3FC94236F6D0EB58#64 := by decide +kernel
theorem test_oscSh3 : (runWord 0x3000003A#32 ready).map (fun t => t.status.word) =
    some 0x0000030A#32 := by decide +kernel
theorem test_oscSh3_index_first : (runWord 0x3000003A#32 { ready with kidx := 22050#32 }).map (fun t => t.status.word) =
    some 0x0000080A#32 := by decide +kernel
theorem test_pcmq_half : (runWord 0x40000000#32 { idle with sample := 0x3FE0000000000000#64 }).map (fun t => t.pcm) =
    some 0x00004000#32 := by decide +kernel
theorem test_pcmq_below_range : (runWord 0x40000000#32 { idle with sample := 0xC000000000000000#64 }).map (fun t => t.pcm) =
    some 0x00008000#32 := by decide +kernel
theorem test_synthSin_first_sample : (next? (step (midway 0x50000000#32 0 0))).map (fun t => (t.pcmSample 0, t.eng.kp)) =
    some (0#16, 1) := by decide +kernel
theorem test_synthSin_bad_note :
    (runWord 0x50000000#32 { short with ncount := 4#13, mem := [(0x1000, 3#8), (0x1001, 1#8), (0x1002, 3#8), (0x1003, 13#8)] }).map
      (fun t => (t.status.word, t.errinfo, t.outlen)) = some (0x00000102#32, 0x000D0003#32, 0#32) := by decide +kernel
theorem test_synthPul_start : (runWord 0x50000010#32 short).map (fun t => (t.nsamp, t.dur, t.eng.n, t.eng.phase)) =
    some (10#32, 0x3F2DB8B6F9266DD5#64, 10, .generate) := by decide +kernel
theorem test_synthPul_last_sample :
    (next? (step (midway 0x50000010#32 1 9))).map (fun t => (t.pcmSample 19, t.outlen, t.status.word)) =
      some (0#16, 20#32, 0x0000000A#32) := by decide +kernel
theorem test_synthSaw_second_sample : (next? (step (midway 0x50000020#32 0 1))).map (fun t => t.pcmSample 1) =
    some 0x85AE#16 := by decide +kernel
theorem test_synthSaw_nan_width :
    (runWord 0x50000020#32 { short with width := 0x7FF8000000000000#64 }).map (fun t => (t.status.word, t.outlen)) =
      some (0x0000040A#32, 0#32) := by decide +kernel
theorem test_synthSh3 :
    (runWord 0x50000030#32 { short with bpm := 0x405E000000000000#64 }).map
      (fun t => (t.status.word, t.errinfo, t.outlen, t.nsamp)) = some (0x0000030A#32, 0#32, 0#32, 22050#32) := by
  decide +kernel
theorem test_clear_keeps_axv :
    (runWord 0x60000000#32 { ready with status := { busy := false, done := true, wbusy := true, axv := true, ecode := 0#4 } }).map
      (fun t => t.status.word) = some 0x00000008#32 := by decide +kernel
theorem test_nop_after_an_error :
    (next? (busEvent (.write 4 0#32 0#32)
      { idle with status := { idle.status with done := true, ecode := 1#4 }, errinfo := 0x000D0003#32 })).map
      (fun t => (t.status.word, t.errinfo)) = some (0x00000102#32, 0x000D0003#32) := by decide +kernel
theorem test_nseq_word :
    ((next? (busEvent (.write 4 0x1000#32 0x0D030103#32) idle)).bind (fun t => next? (busEvent (.read 4 0x1000#32) t))).map
      (fun t => t.readLog) = some [0x0D030103#32] := by decide +kernel
theorem test_ncount_keeps_13_bits :
    ((next? (busEvent (.write 4 0x00C#32 0xFFFFFFFF#32) idle)).bind (fun t => next? (busEvent (.read 4 0x00C#32) t))).map
      (fun t => t.readLog) = some [0x00001FFF#32] := by decide +kernel
/-- STATUS 0x0000080A of section 2.4, read by the host. -/
theorem test_status_read :
    ((runWord 0x3000003A#32 { ready with kidx := 22050#32 }).bind (fun t => next? (busEvent (.read 4 0x004#32) t))).map
      (fun t => t.readLog) = some [0x0000080A#32] := by decide +kernel
theorem test_fetch_word : step (State.reset.withFetchWord 32 0x1000000A) =
    exec (.plookup 10) (State.reset.accept 0x1000000A#32) := rfl
theorem test_fetch_nop : step (State.reset.withFetchWord 32 0) = .next State.reset := rfl
/-- The first command after reset can be each of them. -/
theorem test_fetch_all :
    ∀ w ∈ [0x1000000C, 0x20000000, 0x30000001, 0x30000011, 0x30000021, 0x30000031, 0x40000000, 0x50000000,
        0x50000010, 0x50000020, 0x50000030, 0x60000000],
      (next? (step (State.reset.withFetchWord 32 w))).isSome = true := by decide +kernel

/-! ### Witnesses: for each statement with hypotheses, values that meet them -/

theorem witness_DecodeOfEncodeIsTheInstruction :
    (Instr.plookup 0).wf = true ∧ (Instr.oscSh3 15).wf = true ∧ Instr.clear.wf = true := by decide

theorem witness_DecodedWordReencodes :
    decode 0x10000000#32 = .ok (.plookup 0) ∧ decode 0x3000003F#32 = .ok (.oscSh3 15) := by decide

theorem witness_DecoderIsTheOpcodeMap :
    (0x1000000F#32 &&& (opcodeRow (.plookup 0)).2 = (opcodeRow (.plookup 0)).1 ∧
      0x1000000F#32 &&& (opcodeRow (.plookup 7)).2 = (opcodeRow (.plookup 7)).1) ∧
    ∀ i, 0x70000000#32 &&& (opcodeRow i).2 ≠ (opcodeRow i).1 := by
  refine ⟨by decide, fun i => ?_⟩
  cases i <;> (simp only [opcodeRow]; decide)

theorem witness_IllegalWordsRaiseIllegalCommand :
    (0x00000001#32 ≠ 0#32 ∧ 0x70000000#32 ≠ 0#32) ∧
    (decode 0x00000001#32 = .error .reservedOpcode ∧ idle.status.busy = false) ∧
    ((busyWith 0x70000000#32).status.busy = true ∧ (busyWith 0x70000000#32).pending = [] ∧
      decode (busyWith 0x70000000#32).eng.cw = .error .reservedOpcode) ∧
    (({ busyWith 0x30000040#32 with pending := [.reset] } : State).gaps.headD 0 = 0 ∧
      decode (busyWith 0x30000040#32).eng.cw = .error .reservedBits) := by decide +kernel

theorem witness_StepRunsTheDecodedCommand :
    ((busyWith 0x20000000#32).status.busy = true ∧ (busyWith 0x20000000#32).pending = [] ∧
      decode (busyWith 0x20000000#32).eng.cw = .ok .tquant) ∧
    (let s : State := { busyWith 0x60000000#32 with pending := [.reset], gaps := [0, 3] };
      s.status.busy = true ∧ s.gaps.headD 0 = 0 ∧ decode s.eng.cw = .ok .clear) ∧
    (let s : State := { idle with pending := [.write 4 0#32 0#32, .reset] };
      s.status.busy = false ∧ s.pending = .write 4 0#32 0#32 :: [.reset]) := by decide +kernel

theorem witness_NopChangesNothingWhenIdle :
    (0x00000001#32 ≠ 0#32 ∧ (0x00000001#32).extractLsb' 28 4 = 0#4) ∧
    idle.status.busy = false ∧ (busyWith 0x20000000#32).status.busy = true := by decide +kernel

theorem witness_ClearClearsStatusAndErrorInfo : (busyWith 0x60000000#32).status.busy = true := by decide +kernel

theorem witness_PlookupWritesTheRomEntry :
    promTable[12]? = some 0x407EDE22007F791A#64 ∧ promTable[0]? = some 0#64 ∧ (13 ≤ 13 ∧ 13 < 16) ∧
      (13 ≤ 15 ∧ 15 < 16) := by decide

theorem witness_TquantWritesTheAxis :
    axis ready.bpm = some (0x3FE0000000000000#64, 22050) ∧
    (axis ({ idle with bpm := 0x41542FF7C0000000#64 } : State).bpm).map Prod.snd = some 1 ∧
    axis ({ idle with bpm := 0x41542FF800000000#64 } : State).bpm = none ∧
    axis ({ idle with bpm := 0x8000000000000000#64 } : State).bpm = none := by decide +kernel

theorem witness_OscWritesOneSample :
    (promTable[12]? = some 0x407EDE22007F791A#64 ∧ ready.status.axv = true ∧
      ready.kidx.toNat < ready.nsamp.toNat ∧ isFinite ready.duty = true ∧ isFinite ready.width = true) ∧
    (promTable[0]? = some 0#64 ∧
      ({ ready with kidx := 22049#32 } : State).kidx.toNat < ready.nsamp.toNat) := by decide +kernel

theorem witness_OscReportsTheFirstError :
    oscReport none 12 ready = 3#4 ∧ oscReport (some .sine) 13 ready = 1#4 ∧ oscReport (some .saw) 0 idle = 7#4 ∧
      oscReport (some .pulse) 0 { ready with duty := 0x7FF0000000000000#64 } = 4#4 := by decide +kernel

theorem witness_OscSh3RaisesInvalidWaveformKind :
    (ready.status.axv = true ∧ ready.kidx.toNat < ready.nsamp.toNat) ∧ (13 ≤ 13 ∧ 13 < 16) ∧
    idle.status.axv = false ∧
    (let s : State := { ready with kidx := 22050#32 };
      s.status.axv = true ∧ s.nsamp.toNat ≤ s.kidx.toNat) := by decide +kernel

theorem short_notes_and_tempo : NotesAndTempoOk short 0x3F2DB8B6F9266DD5#64 10 := by
  unfold NotesAndTempoOk; decide +kernel

theorem witness_SynthFirstStepSetsUpTheRun :
    short.eng.phase = .start ∧ 0 < short.ncount.toNat ∧ NotesAndTempoOk short 0x3F2DB8B6F9266DD5#64 10 ∧
      short.ncount.toNat * 10 ≤ short.pcmDepth ∧ isFinite short.duty = true ∧ isFinite short.width = true := by
  exact ⟨by decide +kernel, by decide +kernel, short_notes_and_tempo, by decide +kernel, by decide +kernel, by decide +kernel⟩

theorem witness_SynthOfNoNotesCompletesAtOnce :
    idle.eng.phase = .start ∧ idle.ncount = 0#13 ∧ axis idle.bpm = some (0x3FE0000000000000#64, 22050) ∧
      isFinite idle.duty = true ∧ isFinite idle.width = true := by decide +kernel

theorem witness_SynthReportsTheFirstError :
    (let s : State := { short with ncount := 5#13 };
      s.eng.phase = .start ∧ s.nseqDepth < s.ncount.toNat) ∧
    (let s : State := { short with mem := [(0x1000, 12#8), (0x1001, 13#8)] };
      s.eng.phase = .start ∧ s.ncount.toNat ≤ s.nseqDepth ∧ 1 < s.ncount.toNat ∧ 12 < s.noteCode 1 ∧
        (∀ i, i < 1 → s.noteCode i ≤ 12) ∧ s.nseqDepth ≤ 4096) ∧
    (let s : State := { short with bpm := 0#64 };
      s.eng.phase = .start ∧ s.ncount.toNat ≤ s.nseqDepth ∧
        (∀ j, j < s.ncount.toNat → s.noteCode j ≤ 12) ∧ axis s.bpm = none) ∧
    (let s : State := { short with width := 0x7FF8000000000000#64 };
      s.eng.phase = .start ∧ NotesAndTempoOk s 0x3F2DB8B6F9266DD5#64 10 ∧ shapeParamOk .saw s = false) ∧
    (let s : State := { short with pcmCap := 19#32 };
      s.eng.phase = .start ∧ NotesAndTempoOk s 0x3F2DB8B6F9266DD5#64 10 ∧ shapeParamOk .saw s = true ∧
        s.pcmDepth < s.ncount.toNat * 10) := by
  unfold NotesAndTempoOk; decide +kernel

theorem witness_SynthSh3RaisesInvalidWaveformKind :
    NotesAndTempoOk short 0x3F2DB8B6F9266DD5#64 10 ∧
    (let s : State := { short with ncount := 5#13 };
      s.nseqDepth < s.ncount.toNat) ∧
    (let s : State := { short with mem := [(0x1000, 13#8), (0x1001, 255#8)] };
      s.nseqDepth ≤ 4096 ∧ s.ncount.toNat ≤ s.nseqDepth ∧ 0 < s.ncount.toNat ∧ 12 < s.noteCode 0 ∧
        ∀ i, i < 0 → s.noteCode i ≤ 12) ∧
    (let s : State := { short with bpm := 0xBFF0000000000000#64 };
      s.ncount.toNat ≤ s.nseqDepth ∧ (∀ j, j < s.ncount.toNat → s.noteCode j ≤ 12) ∧ axis s.bpm = none) ∧
    ∃ t, exec .synthSh3 short = .next t := by
  refine ⟨short_notes_and_tempo, by decide +kernel, by decide +kernel, by decide +kernel, ⟨_, rfl⟩⟩

/-- A middle sample of a note, the last one of a note, and the last one of all. -/
theorem witness_SynthSampleStepWritesOneSample :
    ∀ p ∈ [(0, 0), (0, 9), (1, 9)],
      let s := midway 0x50000020#32 p.1 p.2
      s.eng.phase = .generate ∧ s.eng.np < s.nseqDepth ∧ s.noteCode s.eng.np ≤ 12 ∧
        (promTable[s.noteCode s.eng.np]?).isSome = true ∧ s.eng.np * s.eng.n + s.eng.kp < s.pcmDepth ∧
        ((p = (0, 0) ∧ s.eng.kp + 1 < s.eng.n) ∨
          (p = (0, 9) ∧ s.eng.n ≤ s.eng.kp + 1 ∧ s.eng.np + 1 ≠ s.ncount.toNat) ∨
          (p = (1, 9) ∧ s.eng.n ≤ s.eng.kp + 1 ∧ s.eng.np + 1 = s.ncount.toNat)) := by decide +kernel

theorem witness_SynthFillsThePcmBuffer :
    let s := { short with pcmCap := 20#32 }.accept 0x50000020#32
    s.status.busy = true ∧ s.status.ecode = 0#4 ∧ s.eng.phase = .start ∧
      decode s.eng.cw = .ok (synthInstr .saw) ∧ s.pending = [] ∧ s.nseqDepth ≤ 4096 ∧ s.pcmDepth ≤ 8388608 ∧
      NotesAndTempoOk s 0x3F2DB8B6F9266DD5#64 10 ∧ shapeParamOk .saw s = true ∧
      s.ncount.toNat * 10 ≤ s.pcmDepth ∧ (1 < s.ncount.toNat ∧ 9 < 10 ∧ promTable[s.noteCode 1]? = some 0#64) := by
  unfold NotesAndTempoOk; decide +kernel

/-- One state with AXV and WBUSY 0, one with both 1: past every check, and for each other clause an error. -/
theorem witness_SynthOutcomeDependsOnItsInputsAlone :
    ∀ p ∈ [({ short with duty := 0x3FE0000000000000#64 }, 0#4), ({ short with bpm := 0#64 }, 2#4),
        ({ short with duty := 0x7FF0000000000000#64 }, 4#4), ({ short with pcmCap := 19#32 }, 6#4)],
      let s := p.1.accept 0x50000010#32
      let s' : State := { s with
        width := 0#64, kidx := 9#32, freq := 1#64, dur := 5#64
        status := { s.status with axv := true, wbusy := true } }
      s.eng.phase = .start ∧ s'.eng.phase = .start ∧ s.ncount = s'.ncount ∧
        (∀ j, j < s.ncount.toNat → s.noteCode j = s'.noteCode j) ∧ s.bpm = s'.bpm ∧ s.duty = s'.duty ∧
        s.nseqCap = s'.nseqCap ∧ s.pcmCap = s'.pcmCap ∧
        (s.status.busy = true ∧ s.status.done = false ∧ s.status.ecode = 0#4) ∧
        (s'.status.busy = true ∧ s'.status.done = false ∧ s'.status.ecode = 0#4) ∧
        s.status.axv ≠ s'.status.axv ∧ s.ncount.toNat ≤ s.nseqDepth ∧
        (next? (exec (synthInstr .pulse) s)).map (fun t => (t.status.ecode, t.status.busy)) = some (p.2, decide (p.2 = 0#4)) ∧
        (next? (exec (synthInstr .pulse) s')).map (fun t => t.status.ecode) = some p.2 := by decide +kernel

/-- An error of PLOOKUP and one of TQUANT; of SYNTH the codes 1 and 2, both 6, 3 and 4; an illegal word. -/
theorem witness_ErrorsArePrecise :
    (∃ t, exec (.plookup 13) idle = .next t ∧ decide (t.status.ecode = 1#4) = true) ∧
    (∃ t, exec .tquant { idle with bpm := 0#64 } = .next t ∧ decide (t.status.ecode = 2#4) = true) ∧
    (∃ t, exec .synthSin { short with mem := [(0x1000, 13#8), (0x1001, 0#8)] } = .next t ∧
      decide (t.status.ecode = 1#4) = true) ∧
    (∃ t, exec .synthSin { short with bpm := 0#64 } = .next t ∧ decide (t.status.ecode = 2#4) = true) ∧
    (∃ t, exec .synthSin { short with ncount := 5#13 } = .next t ∧ decide (t.status.ecode = 6#4) = true) ∧
    (∃ t, exec .synthSin { short with pcmCap := 19#32 } = .next t ∧ decide (t.status.ecode = 6#4) = true) ∧
    (∃ t, exec .synthSh3 short = .next t ∧ decide (t.status.ecode = 3#4) = true) ∧
    (∃ t, exec .synthSaw { short with width := 0x7FF0000000000000#64 } = .next t ∧
      decide (t.status.ecode = 4#4) = true) ∧
    idle.status.ecode = 0#4 ∧ short.status.ecode = 0#4 ∧
    decode (busyWith 0x70000000#32).eng.cw = .error .reservedOpcode :=
  ⟨next_with (fun t => decide (t.status.ecode = 1#4)) (by decide +kernel),
    next_with (fun t => decide (t.status.ecode = 2#4)) (by decide +kernel),
    next_with (fun t => decide (t.status.ecode = 1#4)) (by decide +kernel),
    next_with (fun t => decide (t.status.ecode = 2#4)) (by decide +kernel),
    next_with (fun t => decide (t.status.ecode = 6#4)) (by decide +kernel),
    next_with (fun t => decide (t.status.ecode = 6#4)) (by decide +kernel),
    next_with (fun t => decide (t.status.ecode = 3#4)) (by decide +kernel),
    next_with (fun t => decide (t.status.ecode = 4#4)) (by decide +kernel), rfl, rfl, by decide⟩

/-- Witness of CommandsKeepTheHostsRegisters, ResultRegistersHaveTheirOwnWriters and
EngineStoresOnlyTheSample: a command that completes, and a SYNTH that stores a sample. -/
theorem witness_exec_next :
    (∃ t, exec .pcmq idle = .next t ∧ decide (t.status.done = true) = true) ∧
    (∃ t, exec .synthSaw (midway 0x50000020#32 1 9) = .next t ∧ decide (t.pcmSample 19 = 0#16) = true) :=
  ⟨next_with (fun t => decide (t.status.done = true)) (by decide +kernel),
    next_with (fun t => decide (t.pcmSample 19 = 0#16)) (by decide +kernel)⟩

/-- Witness of CapacitiesNeverChange: a step that is a reset. -/
theorem witness_CapacitiesNeverChange :
    ∃ t, step { short with pending := [.reset] } = .next t ∧ decide (t.epoch = 1) = true :=
  next_with (fun t => decide (t.epoch = 1)) (by decide +kernel)

/-- An engine step, with a reset waiting; and an ignored write, which is no engine step. -/
theorem witness_InputsHoldStillWhileBusy :
    (∃ t, step { midway 0x50000020#32 0 1 with pending := [.reset] } = .next t ∧ decide (t.eng.kp = 2) = true) ∧
    (∃ t, step { midway 0x50000020#32 0 1 with pending := [.write 4 0x44#32 7#32], gaps := [1] } = .next t ∧
      decide (t.status.wbusy = true) = true) ∧
    (midway 0x50000020#32 0 1).status.busy = true ∧
    ({ midway 0x50000020#32 0 1 with pending := [.reset] } : State).turn ≠ .outside .reset ∧
    ({ midway 0x50000020#32 0 1 with pending := [.write 4 0x44#32 7#32], gaps := [1] } : State).turn =
      .outside (.write 4 0x44#32 7#32) :=
  ⟨next_with (fun t => decide (t.eng.kp = 2)) (by decide +kernel),
    next_with (fun t => decide (t.status.wbusy = true)) (by decide +kernel), rfl, by decide +kernel, by decide +kernel⟩

theorem witness_BusyChangesByAcceptanceAndCompletion :
    (idle.status.busy = false ∧ 0x60000000#32 ≠ 0#32) ∧
    (∃ t, step { idle with pending := [.write 4 0#32 0xFFFFFFFF#32] } = .next t ∧
      decide (t.status.busy = true) = true) ∧
    (∃ t, step (busyWith 0x60000000#32) = .next t ∧ decide (t.status.busy = false) = true) ∧
    (∃ t, step { busyWith 0x60000000#32 with pending := [.reset], gaps := [1] } = .next t ∧
      decide (t.status.busy = false) = true) :=
  ⟨by decide +kernel, next_with (fun t => decide (t.status.busy = true)) (by decide +kernel),
    next_with (fun t => decide (t.status.busy = false)) (by decide +kernel),
    next_with (fun t => decide (t.status.busy = false)) (by decide +kernel)⟩

theorem witness_WbusyIsSticky :
    (∃ t, step (busyWith 0x60000000#32).ignoreWrite = .next t ∧ decide (t.status.wbusy = false) = true) ∧
    (∃ t, step { (idle.ignoreWrite) with pending := [.reset] } = .next t ∧
      decide (t.status.wbusy = false) = true) ∧
    (busyWith 0x60000000#32).ignoreWrite.status.wbusy = true ∧ idle.ignoreWrite.status.wbusy = true :=
  ⟨next_with (fun t => decide (t.status.wbusy = false)) (by decide +kernel),
    next_with (fun t => decide (t.status.wbusy = false)) (by decide +kernel), rfl, rfl⟩

/-- AXV rises by TQUANT; falls by TQUANT, by a write to each half of BPM, and by reset. -/
theorem witness_AxvHasItsOwnWriters :
    (∃ t, step (idle.accept 0x20000000#32) = .next t ∧ decide (t.status.axv = true) = true) ∧
    (∃ t, step { busyWith 0x20000000#32 with bpm := 0#64 } = .next t ∧ decide (t.status.axv = false) = true) ∧
    (∃ t, step { ready with pending := [.write 4 0x10#32 0#32] } = .next t ∧ decide (t.status.axv = false) = true) ∧
    (∃ t, step { ready with pending := [.write 4 0x14#32 0#32] } = .next t ∧ decide (t.status.axv = false) = true) ∧
    (∃ t, step { ready with pending := [.reset] } = .next t ∧ decide (t.status.axv = false) = true) ∧
    idle.status.axv = false ∧ ready.status.axv = true :=
  ⟨next_with (fun t => decide (t.status.axv = true)) (by decide +kernel),
    next_with (fun t => decide (t.status.axv = false)) (by decide +kernel),
    next_with (fun t => decide (t.status.axv = false)) (by decide +kernel),
    next_with (fun t => decide (t.status.axv = false)) (by decide +kernel),
    next_with (fun t => decide (t.status.axv = false)) (by decide +kernel), rfl, rfl⟩

/-- Witness of CommandWriteIsAcceptedWhenIdle and BpmWriteClearsAxv. -/
theorem witness_CommandWriteIsAcceptedWhenIdle :
    (busyWith 0x20000000#32).status.busy = true ∧ idle.status.busy = false ∧ 0x00000001#32 ≠ 0#32 := by
  decide +kernel

/-- The first and the last writable and other addresses, and a word that straddles the end of `NSEQ`. -/
theorem witness_BusyWritesOnlySetWbusy :
    (busyWith 0x20000000#32).status.busy = true ∧
    (writableAddr (busyWith 0x20000000#32) 0 ∧ writableAddr (busyWith 0x20000000#32) 0x44 ∧
      writableAddr (busyWith 0x20000000#32) 0x1000) ∧
    (¬ writableAddr (busyWith 0x20000000#32) 0x004 ∧ ¬ writableAddr (busyWith 0x20000000#32) 0x1004 ∧
      ¬ writableAddr (busyWith 0x20000000#32) 0xFFFFFFFC) ∧
    (let s : State := { busyWith 0x20000000#32 with nseqCap := 5#32 };
      s.status.busy = true ∧ (0x1004#32).toNat % 4 = 0 ∧ writableAddr s (0x1004#32).toNat ∧
        ¬ writableAddr s (0x1008#32).toNat) := by
  unfold writableAddr; decide +kernel

theorem witness_WrittenRegisterReadsBack :
    idle.status.busy = false ∧
    (regAt (0x00C#32).toNat = some .ncount ∧ Reg.ncount.writable = true ∧ Reg.ncount ≠ .cmd) ∧
    (regAt (0x014#32).toNat = some .bpmHi ∧ Reg.bpmHi.writable = true ∧ Reg.bpmHi ≠ .cmd) ∧
    (regAt (0x044#32).toNat = some .sampleHi ∧ Reg.sampleHi.writable = true ∧ Reg.sampleHi ≠ .cmd) ∧
    (regAt (0x000#32).toNat = some .cmd ∧ Reg.cmd ≠ .ncount ∧ Reg.cmd ≠ .status) ∧
    (regAt (0x054#32).toNat = some .pcmCap ∧ Reg.pcmCap ≠ .sampleHi ∧ Reg.pcmCap ≠ .status) := by
  decide +kernel

/-- With a depth that ends inside the word. -/
theorem witness_NseqWriteStoresLittleEndianBytes :
    let s : State := { idle with nseqCap := 3#32 }
    s.status.busy = false ∧ s.nseqDepth ≤ 4096 ∧ (0x1000#32).toNat % 4 = 0 ∧ 0x1000 ≤ (0x1000#32).toNat ∧
      (0x1000#32).toNat < 0x1000 + s.nseqDepth ∧ (0x1000#32).toNat + 2 < 0x1000 + s.nseqDepth ∧
      0x1000 + s.nseqDepth ≤ 0x1003 := by decide +kernel

/-- The last word of an odd depth, and the first word. -/
theorem witness_PcmWordReadGivesTwoSamples :
    idle.status.busy = false ∧ idle.nseqDepth ≤ 4096 ∧
    ((0x01000028#32).toNat = 0x01000000 + 4 * 10 ∧ 2 * 10 < idle.pcmDepth ∧ ¬ 2 * 10 + 1 < idle.pcmDepth) ∧
    ((0x01000000#32).toNat = 0x01000000 + 4 * 0 ∧ 2 * 0 + 1 < idle.pcmDepth) := by decide +kernel

theorem witness_UnmappedReadsZeroAndIgnoresWrites :
    idle.nseqDepth ≤ 4096 ∧
    ((0x1004#32).toNat % 4 = 0 ∧ unmappedAddr idle (0x1004#32).toNat) ∧
    ((0x00FFFFFC#32).toNat % 4 = 0 ∧ unmappedAddr idle (0x00FFFFFC#32).toNat) ∧
    ((0x0100002C#32).toNat % 4 = 0 ∧ unmappedAddr idle (0x0100002C#32).toNat) ∧
    ((0xFFFFFFFC#32).toNat % 4 = 0 ∧ unmappedAddr idle (0xFFFFFFFC#32).toNat) := by
  unfold unmappedAddr; decide +kernel

theorem witness_ReadOnlyAndReservedIgnoreWrites :
    (0x004#32).toNat ∈ [0x004, 0x008, 0x02C, 0x030, 0x034, 0x038, 0x03C, 0x048, 0x04C, 0x050, 0x054] ∧
    ((0x058#32).toNat % 4 = 0 ∧ 0x058 ≤ (0x058#32).toNat ∧ (0x058#32).toNat ≤ 0xFFC) ∧
    ((0xFFC#32).toNat % 4 = 0 ∧ 0x058 ≤ (0xFFC#32).toNat ∧ (0xFFC#32).toNat ≤ 0xFFC) ∧
    (idle.nseqDepth ≤ 4096 ∧ (0x01000000#32).toNat % 4 = 0 ∧ 0x01000000 ≤ (0x01000000#32).toNat ∧
      (0x01000000#32).toNat < 0x01000000 + 2 * idle.pcmDepth) ∧
    ((0x01000028#32).toNat % 4 = 0 ∧ 0x01000000 ≤ (0x01000028#32).toNat ∧
      (0x01000028#32).toNat < 0x01000000 + 2 * idle.pcmDepth) := by decide +kernel

theorem witness_ReadsWhileBusy :
    (busyWith 0x20000000#32).status.busy = true ∧
    (regAt (0x054#32).toNat = some .pcmCap ∧ regAt (0x000#32).toNat = some .cmd) ∧
    ((0x1000#32).toNat % 4 = 0 ∧ (0x1000#32).toNat < 0x1000 + (busyWith 0x20000000#32).nseqDepth) ∧
    ((0x058#32).toNat % 4 = 0 ∧ 0x058 ≤ (0x058#32).toNat ∧ (0x058#32).toNat ≤ 0xFFC) ∧
    ((busyWith 0x20000000#32).nseqDepth ≤ 4096 ∧ unmappedAddr (busyWith 0x20000000#32) (0x1004#32).toNat) := by
  unfold unmappedAddr; decide +kernel

theorem witness_ReadsHaveNoSideEffect :
    (∃ t, busEvent (.read 4 0x04C#32) (busyWith 0x20000000#32) = .next t ∧ decide (t.freeCount = 1) = true) ∧
    (∃ t, busEvent (.read 4 0x04C#32) idle = .next t ∧ decide (t.readLog = [0#32]) = true) :=
  ⟨next_with (fun t => decide (t.freeCount = 1)) (by decide +kernel),
    next_with (fun t => decide (t.readLog = [0#32])) (by decide +kernel)⟩

theorem witness_AccessOutsideTheContractIsRefused : 2 ≠ 4 ∧ (0x002#32).toNat % 4 ≠ 0 ∧ (0x1003#32).toNat % 4 ≠ 0 := by
  decide

theorem witness_NothingRunsAfterReset : idle.status.busy = false ∧ idle.pending = [] := by decide +kernel

/-- A good state between the sample steps of a SYNTH. -/
theorem midway_inv : Inv (midway 0x50000020#32 0 1) where
  memory_wf := by decide +kernel
  memory_mapped := by decide +kernel
  nseq_range := by decide +kernel
  pcm_range := by decide +kernel
  errinfo_reserved := by decide +kernel
  pcm_reserved := by decide +kernel
  ecode_named := by decide +kernel
  busy_clean := by decide +kernel
  axis_fresh := by decide +kernel
  outlen_fits := by decide +kernel
  generating := fun _ _ =>
    { shape := ⟨.saw, by decide +kernel⟩
      notes_fit := by decide +kernel
      notes_valid := by decide +kernel
      axis_held := by decide +kernel
      np_bound := by decide +kernel
      kp_bound := by decide +kernel
      output_fits := by decide +kernel }

theorem witness_NoStepFromAGoodStateFaults :
    Inv (midway 0x50000020#32 0 1) ∧ (midway 0x50000020#32 0 1).turn = .engine ∧
    (midway 0x50000020#32 0 1).eng.phase = .generate ∧
    (∃ t, step (midway 0x50000020#32 0 1) = .next t ∧ decide (t.eng.kp = 2) = true) :=
  ⟨midway_inv, by decide +kernel, rfl, next_with (fun t => decide (t.eng.kp = 2)) (by decide +kernel)⟩

theorem witness_StepKeepsTheInvariant :
    Inv (midway 0x50000020#32 0 1) ∧
    ∃ t, step (midway 0x50000020#32 0 1) = .next t ∧ decide (t.eng.kp = 2) = true :=
  ⟨midway_inv, next_with (fun t => decide (t.eng.kp = 2)) (by decide +kernel)⟩

theorem witness_RefusalsAreOutsideTheContract :
    step { idle with pending := [.read 2 0#32] } = .refused .accessWidth ∧
    step { idle with pending := [.write 4 2#32 0#32] } = .refused .misaligned ∧
    step { idle with pending := [.otherMaster] } = .refused .secondMaster := by
  refine ⟨rfl, rfl, rfl⟩

theorem witness_EveryAcceptedCommandCompletes :
    Inv (midway 0x50000020#32 0 1) ∧ (midway 0x50000020#32 0 1).status.busy = true ∧
      (∀ ev ∈ (midway 0x50000020#32 0 1).pending, ev.inContract = true) ∧
      BusEvent.reset ∉ (midway 0x50000020#32 0 1).pending :=
  ⟨midway_inv, rfl, by decide +kernel, by decide +kernel⟩

theorem witness_PitchRomIsNearestToEqualTemperament :
    promTable[1]? = some 0x40705A0250C2B956#64 ∧ promTable[12]? = some 0x407EDE22007F791A#64 ∧
      isFinite 0x40705A0250C2B957#64 = true := by decide +kernel

/-- Also of RoundingToIntegersIsExact: 0.5 is a tie. The largest finite value plus half a unit of its last
place is exactly the overflow limit; that half a unit less the last bit stays below it. -/
theorem witness_ArithmeticRoundsToNearestEven :
    (isFinite 0x3FE0000000000000#64 = true ∧ isFinite 0x4008000000000000#64 = true ∧
      isZero 0x4008000000000000#64 = false) ∧
    (isFinite 0x7FEFFFFFFFFFFFFF#64 = true ∧ isFinite 0x7C90000000000000#64 = true ∧
      f64Int 0x7FEFFFFFFFFFFFFF#64 + f64Int 0x7C90000000000000#64 = (2 ^ 1024 - 2 ^ 970) * 2 ^ 1074) ∧
    (isFinite 0x7C8FFFFFFFFFFFFF#64 = true ∧
      f64Int 0x7FEFFFFFFFFFFFFF#64 + f64Int 0x7C8FFFFFFFFFFFFF#64 < (2 ^ 1024 - 2 ^ 970) * 2 ^ 1074) := by
  decide +kernel

/-- The same three sums and their rounding by IEEE 754: the limit itself overflows, below it does not. -/
theorem test_overflow_limit :
    add64 0x7FEFFFFFFFFFFFFF#64 0x7C90000000000000#64 = 0x7FF0000000000000#64 ∧
    add64 0x7FEFFFFFFFFFFFFF#64 0x7C8FFFFFFFFFFFFF#64 = 0x7FEFFFFFFFFFFFFF#64 ∧
    sub64 0xFFEFFFFFFFFFFFFF#64 0x7C90000000000000#64 = 0xFFF0000000000000#64 ∧
    mul64 0x8000000000000001#64 0x3FE0000000000000#64 = 0x8000000000000000#64 := by decide +kernel

theorem witness_SineMeetsItsLimits : isFinite 0x7FEFFFFFFFFFFFFF#64 = true := by decide +kernel

/-- Also of TimeAxisRisesStrictly: an axis of ten samples, of two, of one, and the longest. -/
theorem witness_TempoIsInvalidExactlyAsStated :
    axis 0x4110266000000000#64 = some (0x3F2DB8B6F9266DD5#64, 10) ∧ (0 < 1 ∧ 1 + 1 < 10) ∧ (0 < 8 ∧ 8 + 1 < 10) ∧
    (axis 0x41342FF800000000#64).map Prod.snd = some 2 ∧ (axis 0x41442FF800000000#64).map Prod.snd = some 1 ∧
    (axis 0x3F442FF8000A17FC#64).map Prod.snd = some 4294967295 := by
  decide +kernel

theorem witness_FirstSampleOfANote :
    promTable[1]? = some 0x40705A0250C2B956#64 ∧
    (isFinite 0x0000000000000001#64 = true ∧ lt64 0#64 0x0000000000000001#64 = true) ∧
    (isFinite 0x8000000000000000#64 = true ∧ isZero 0x8000000000000000#64 = true) := by decide +kernel

theorem witness_PulseDegeneratesToAConstant :
    promTable[12]? = some 0x407EDE22007F791A#64 ∧ axis 0x4110266000000000#64 = some (0x3F2DB8B6F9266DD5#64, 10) ∧
    (isFinite 0x8000000000000000#64 = true ∧ le64 0x8000000000000000#64 0#64 = true) ∧
    (isFinite 0x3FF0000000000000#64 = true ∧ le64 0x3FF0000000000000#64 0x3FF0000000000000#64 = true) := by
  decide +kernel

theorem witness_OscillatorSamplesLieInTheUnitRange :
    promTable[12]? = some 0x407EDE22007F791A#64 ∧ axis 0x4110266000000000#64 = some (0x3F2DB8B6F9266DD5#64, 10) ∧
    shapeParamOk .pulse idle = true ∧ shapeParamOk .saw idle = true ∧ shapeParamOk .sine idle = true := by
  decide +kernel

/-- A note and an axis; a product with a phase of 0, and one whose phase 0.5 is neither below the duty nor
below the width. -/
theorem witness_SamplesFollowTheirFormulas :
    isFinite 0x401921FB54442D19#64 = true ∧
    (promTable[1]? = some 0x40705A0250C2B956#64 ∧ axis 0x4110266000000000#64 = some (0x3F2DB8B6F9266DD5#64, 10) ∧ 9 < 10) ∧
    (isFinite (mul64 0x407B800000000000#64 0#64) = true ∧ le64 0#64 (mul64 0x407B800000000000#64 0#64) = true ∧
      isFinite 0x3FE0000000000000#64 = true) ∧
    (isFinite (mul64 0x4008000000000000#64 0x3FE0000000000000#64) = true ∧
      le64 0#64 (mul64 0x4008000000000000#64 0x3FE0000000000000#64) = true ∧
      phaseOf 0x4008000000000000#64 0x3FE0000000000000#64 = 0x3FE0000000000000#64) := by decide +kernel

/-- A NaN, and a product that is finite, +inf and -inf. -/
theorem witness_QuantizerNeverWraps :
    isNaN 0x7FF8000000000000#64 = true ∧
    (isNaN 0xC000000000000000#64 = false ∧ isFinite (mul64 0xC000000000000000#64 0x40DFFFC000000000#64) = true) ∧
    (isNaN 0x7FEFFFFFFFFFFFFF#64 = false ∧
      mul64 0x7FEFFFFFFFFFFFFF#64 0x40DFFFC000000000#64 = 0x7FF0000000000000#64) ∧
    (isNaN 0xFFF0000000000000#64 = false ∧
      mul64 0xFFF0000000000000#64 0x40DFFFC000000000#64 = 0xFFF0000000000000#64) ∧
    (le64 0xBFF0000000000000#64 0xBFF0000000000000#64 = true ∧ le64 0xBFF0000000000000#64 0x3FF0000000000000#64 = true) := by
  decide +kernel

theorem witness_QuantizerIsMonotone :
    le64 0xBFF0000000000000#64 0xBFF0000000000000#64 = true ∧ le64 0xBFF0000000000000#64 0x3FF0000000000000#64 = true ∧
      le64 0x8000000000000000#64 0x7FF0000000000000#64 = true := by decide +kernel

end Sys2Proof.Tests
end

section
/-! PROOFS. Rounding to whole numbers (spec/00_scope.md R10, R11) and the limits of `SIN64` (R13). -/

namespace Sys2Proof.Machine

/-! ### Finite and packed values -/

theorem isFinite_iff {a : F64} : isFinite a = true ↔ f64Mag a < infMag := decide_eq_true_iff

theorem isNaN_of_isFinite {a : F64} (h : isFinite a = true) : isNaN a = false :=
  decide_eq_false (isFinite_iff.1 h).not_gt

theorem isInf_of_isFinite {a : F64} (h : isFinite a = true) : isInf a = false :=
  decide_eq_false (isFinite_iff.1 h).ne

theorem isFinite_packF64 (neg : Bool) {m : Nat} (h : m < infMag) : isFinite (packF64 neg m) = true := by
  rw [isFinite_iff, f64Mag_packF64 neg h.le]
  exact h

theorem f64Int_packF64 (neg : Bool) {m : Nat} (h : m ≤ infMag) :
    f64Int (packF64 neg m) = if neg then -(unitsOfMag m : Int) else (unitsOfMag m : Int) := by
  rw [f64Int, f64Units, f64Neg_packF64 neg h, f64Mag_packF64 neg h]

/-! ### Values and units of 2^-1074 -/

theorem f64Int_of_neg {a : F64} (h : f64Neg a = true) : f64Int a = -(f64Units a : Int) := if_pos h

theorem f64Int_of_not_neg {a : F64} (h : f64Neg a = false) : f64Int a = (f64Units a : Int) := by
  rw [f64Int, h, if_neg Bool.false_ne_true]

theorem natAbs_f64Int (a : F64) : (f64Int a).natAbs = f64Units a := by
  cases h : f64Neg a with
  | false => rw [f64Int_of_not_neg h, Int.natAbs_natCast]
  | true => rw [f64Int_of_neg h, Int.natAbs_neg, Int.natAbs_natCast]

theorem unitsPerOne_pos : 0 < unitsPerOne := by
  unfold unitsPerOne
  positivity

/-- For every exponent, so that nothing evaluates the one of `unitsPerOne`. -/
theorem cast_two_pow (n : Nat) : ((2 ^ n : Nat) : ℚ) = 2 ^ n := by norm_cast

theorem f64Rat_eq_div (a : F64) : f64Rat a = (f64Int a : ℚ) / (unitsPerOne : ℚ) :=
  congrArg ((f64Int a : ℚ) / ·) (cast_two_pow 1074).symm

/-- A whole number of ones in units is that whole number in value. -/
theorem f64Rat_of_f64Int_eq_mul {a : F64} {k : Int} (h : f64Int a = k * unitsPerOne) : f64Rat a = k := by
  have hpos : (unitsPerOne : ℚ) ≠ 0 := Nat.cast_ne_zero.2 unitsPerOne_pos.ne'
  rw [f64Rat_eq_div, h, Int.cast_mul, Int.cast_natCast, mul_div_cancel_right₀ _ hpos]

theorem floor_f64Rat (a : F64) : ⌊f64Rat a⌋ = f64Int a / unitsPerOne := by
  rw [f64Rat_eq_div, Int.floor_div_natCast, Int.floor_intCast]

/-! ### floor64 (R10) -/

/-- A mantissa below 2^53 at any shift of the format is the magnitude of a finite value: it is doubled, and
the shift lowered, until it has 53 bits or the shift is 0. -/
theorem exists_unitsOfMag_eq_mul_two_pow {k e : Nat} (hk : k < 2 ^ 53) (he : e ≤ 2045) :
    ∃ m < infMag, unitsOfMag m = k * 2 ^ e := by
  have hinf := infMag_eq
  induction e generalizing k with
  | zero =>
    by_cases hsub : k < 2 ^ 52
    · exact ⟨k, by omega, by rw [unitsOfMag_subnormal hsub, pow_zero, Nat.mul_one]⟩
    · exact ⟨0 * 2 ^ 52 + k, by omega, unitsOfMag_mantissa (by omega) hk⟩
  | succ e ih =>
    by_cases hsub : k < 2 ^ 52
    · obtain ⟨m, hm, hu⟩ := ih (k := k * 2) (by omega) (by omega)
      exact ⟨m, hm, by rw [hu, Nat.pow_succ', Nat.mul_assoc]⟩
    · exact ⟨(e + 1) * 2 ^ 52 + k, by omega, unitsOfMag_mantissa (by omega) hk⟩

theorem unitsPerOne_dvd_two_pow {e : Nat} (h : 1074 ≤ e) : unitsPerOne ∣ 2 ^ e := by
  unfold unitsPerOne
  exact pow_dvd_pow 2 h

/-- From 2^52 on, every value is a whole number. -/
theorem unitsPerOne_dvd_unitsOfMag {m : Nat} (h : 1075 * 2 ^ 52 ≤ m) : unitsPerOne ∣ unitsOfMag m := by
  rw [unitsOfMag_normal (by omega)]
  exact Nat.dvd_mul_left_of_dvd (unitsPerOne_dvd_two_pow (by omega)) _

/-- Below 2^52 the number of whole ones leaves room for the next one in 53 bits. -/
theorem unitsOfMag_lt_of_lt {m : Nat} (h : m < 1075 * 2 ^ 52) : unitsOfMag m < 2 ^ 52 * unitsPerOne := by
  have hlimit : unitsOfMag (1074 * 2 ^ 52 + 2 ^ 52) = 2 ^ 52 * unitsPerOne := by
    rw [unitsOfMag_mantissa le_rfl (by norm_num), unitsPerOne]
  rw [← hlimit]
  exact unitsOfMag_strictMono (by omega)

/-- The floor of a finite value is representable. -/
theorem exists_unitsOfMag_eq_floor {a : F64} (h : isFinite a = true) :
    ∃ m < infMag, unitsOfMag m = (f64Int a / (unitsPerOne : Int)).natAbs * unitsPerOne := by
  have habs := natAbs_f64Int a
  by_cases hbig : 1075 * 2 ^ 52 ≤ f64Mag a
  · have hdvd : (unitsPerOne : Int) ∣ f64Int a := by
      rw [Int.natCast_dvd, habs]
      exact unitsPerOne_dvd_unitsOfMag hbig
    refine ⟨f64Mag a, isFinite_iff.1 h, ?_⟩
    calc unitsOfMag (f64Mag a) = (f64Int a).natAbs := habs.symm
      _ = (f64Int a / (unitsPerOne : Int) * (unitsPerOne : Int)).natAbs := by rw [Int.ediv_mul_cancel hdvd]
      _ = _ := Int.natAbs_mul _ _
  · have hlt : f64Units a < 2 ^ 52 * unitsPerOne := unitsOfMag_lt_of_lt (by omega)
    have hpos : (0 : Int) < (unitsPerOne : Int) := Int.natCast_pos.2 unitsPerOne_pos
    have hlow : -(2 ^ 52) ≤ f64Int a / (unitsPerOne : Int) := by
      rw [Int.le_ediv_iff_mul_le hpos]
      omega
    have hhigh : f64Int a / (unitsPerOne : Int) < 2 ^ 52 := by
      rw [Int.ediv_lt_iff_lt_mul hpos]
      omega
    exact exists_unitsOfMag_eq_mul_two_pow (by omega) (by norm_num)

/-- The floor has the operand's sign or is 0, so `floor64`, which packs the operand's sign, is right. -/
theorem floor_eq_sign_natAbs (a : F64) :
    f64Int a / (unitsPerOne : Int) =
      if f64Neg a then -((f64Int a / (unitsPerOne : Int)).natAbs : Int)
      else ((f64Int a / (unitsPerOne : Int)).natAbs : Int) := by
  have hpos : (0 : Int) < (unitsPerOne : Int) := Int.natCast_pos.2 unitsPerOne_pos
  split
  next hneg =>
    have hint : f64Int a ≤ 0 := by rw [f64Int_of_neg hneg]; omega
    have hfloor := Int.ediv_le_ediv hpos hint
    rw [Int.zero_ediv] at hfloor
    omega
  next hneg =>
    have hint : 0 ≤ f64Int a := by rw [f64Int_of_not_neg (eq_false_of_ne_true hneg)]; omega
    have hfloor := Int.ediv_nonneg hint hpos.le
    omega

theorem floor64_eq_packF64 {a : F64} (h : isFinite a = true) :
    floor64 a = packF64 (f64Neg a) (roundMag ((f64Int a / (unitsPerOne : Int)).natAbs * unitsPerOne) 1) := by
  rw [floor64, isNaN_of_isFinite h, isInf_of_isFinite h, if_neg Bool.false_ne_true, if_neg Bool.false_ne_true]

/-- `floor64` rounds nothing off: the whole number it packs is representable. -/
theorem floor64_of_isFinite {a : F64} (h : isFinite a = true) :
    isFinite (floor64 a) = true ∧ f64Int (floor64 a) = f64Int a / (unitsPerOne : Int) * unitsPerOne := by
  obtain ⟨m, hm, hunits⟩ := exists_unitsOfMag_eq_floor h
  have hround : roundMag (unitsOfMag m) 1 = m := by
    simpa using roundMag_exact hm.le (den := 1) Nat.one_pos
  rw [floor64_eq_packF64 h, ← hunits, hround]
  refine ⟨isFinite_packF64 _ hm, ?_⟩
  rw [f64Int_packF64 _ hm.le, hunits, floor_eq_sign_natAbs a, Nat.cast_mul]
  split
  · rw [Int.natAbs_neg, Int.natAbs_natCast, Int.neg_mul]
  · rw [Int.natAbs_natCast]

theorem f64Rat_floor64 {a : F64} (h : isFinite a = true) : f64Rat (floor64 a) = (⌊f64Rat a⌋ : ℚ) := by
  rw [floor_f64Rat]
  exact f64Rat_of_f64Int_eq_mul (floor64_of_isFinite h).2

/-! ### rte (R11) -/

/-- The laws of `roundNearestEven` as a distance. -/
theorem roundNearestEven_abs_sub (num : Nat) {den : Nat} (hd : 0 < den) :
    2 * |(num : Int) - roundNearestEven num den * den| ≤ den ∧
      (2 * |(num : Int) - roundNearestEven num den * den| = den → roundNearestEven num den % 2 = 0) := by
  obtain ⟨hlow, hhigh⟩ := roundNearestEven_close num hd
  have htie := roundNearestEven_tie num hd
  generalize roundNearestEven num den = r at *
  push_cast [← Int.ofNat_le, ← Int.ofNat_inj] at hlow hhigh htie
  rcases abs_cases ((num : Int) - r * den) with ⟨habs, -⟩ | ⟨habs, -⟩ <;> rw [habs]
  · exact ⟨by linarith, fun h => by exact_mod_cast htie (.inl (by linarith))⟩
  · exact ⟨by linarith, fun h => by exact_mod_cast htie (.inr (by linarith))⟩

theorem rte_of_neg {a : F64} (h : f64Neg a = true) :
    rte a = -(roundNearestEven (f64Units a) unitsPerOne : Int) := if_pos h

theorem rte_of_not_neg {a : F64} (h : f64Neg a = false) :
    rte a = (roundNearestEven (f64Units a) unitsPerOne : Int) := by
  rw [rte, h, if_neg Bool.false_ne_true]

/-- Value and rounded number have one sign, so their distance is that of the magnitudes. -/
theorem abs_f64Int_sub_rte (a : F64) :
    |f64Int a - rte a * unitsPerOne| =
      |(f64Units a : Int) - roundNearestEven (f64Units a) unitsPerOne * unitsPerOne| := by
  cases h : f64Neg a with
  | false => rw [f64Int_of_not_neg h, rte_of_not_neg h]
  | true => rw [f64Int_of_neg h, rte_of_neg h, Int.neg_mul, ← neg_sub', abs_neg]

theorem rte_even_of_magnitude_even {a : F64} (heven : roundNearestEven (f64Units a) unitsPerOne % 2 = 0) :
    rte a % 2 = 0 := by
  cases h : f64Neg a with
  | false => rw [rte_of_not_neg h]; omega
  | true => rw [rte_of_neg h]; omega

theorem abs_f64Rat_sub_rte (a : F64) :
    |f64Rat a - (rte a : ℚ)| = (|f64Int a - rte a * unitsPerOne| : Int) / (unitsPerOne : ℚ) := by
  have hpos : (0 : ℚ) < (unitsPerOne : ℚ) := Nat.cast_pos.2 unitsPerOne_pos
  rw [f64Rat_eq_div, div_sub' hpos.ne', abs_div, abs_of_pos hpos]
  push_cast
  rw [mul_comm (unitsPerOne : ℚ)]

theorem rte_nearest_even (a : F64) :
    |f64Rat a - (rte a : ℚ)| ≤ 1 / 2 ∧ (|f64Rat a - (rte a : ℚ)| = 1 / 2 → rte a % 2 = 0) := by
  have hpos : (0 : ℚ) < (unitsPerOne : ℚ) := Nat.cast_pos.2 unitsPerOne_pos
  obtain ⟨hclose, htie⟩ := roundNearestEven_abs_sub (f64Units a) unitsPerOne_pos
  rw [← abs_f64Int_sub_rte] at hclose htie
  rw [abs_f64Rat_sub_rte, div_le_div_iff₀ hpos two_pos, div_eq_div_iff hpos.ne' two_ne_zero, one_mul, mul_comm]
  exact ⟨by exact_mod_cast hclose, fun h => rte_even_of_magnitude_even (htie (by exact_mod_cast h))⟩

/-- The four examples of R11: a tie above and below, to the even number, on either side of 0. -/
theorem rte_examples :
    rte 0x40DAEAA000000000#64 = 27562 ∧ rte 0x3FE0000000000000#64 = 0 ∧
      rte 0x40CFFFC000000000#64 = 16384 ∧ rte 0xC0CFFFC000000000#64 = -16384 := by decide +kernel

/-- Settles O51: `floor64` by the floor being representable, `rte` by the distance of `roundNearestEven`. -/
theorem roundingToIntegersIsExact : Obligations.RoundingToIntegersIsExact :=
  ⟨fun _ h => ⟨(floor64_of_isFinite h).1, f64Rat_floor64 h⟩, fun a _ => rte_nearest_even a, rte_examples⟩

/-! ### SIN64 (R13) -/

theorem inUnitRange_iff {a : F64} :
    inUnitRange a = true ↔ isFinite a = true ∧ le64 minusOne64 a = true ∧ le64 a one64 = true := by
  simp [inUnitRange, and_assoc]

theorem inUnitRange_zero64 : inUnitRange zero64 = true := by decide +kernel

theorem sin64_zero64 : sin64 zero64 = zero64 := if_pos rfl

/-- R13(b): the open function counts on a finite operand only where it stays in the range. -/
theorem inUnitRange_sin64 {a : F64} (h : isFinite a = true) : inUnitRange (sin64 a) = true := by
  by_cases hzero : a = zero64
  · rw [hzero, sin64_zero64]
    exact inUnitRange_zero64
  · cases hseed : inUnitRange (Config.sineSeed a) with
    | true => simp [sin64, hzero, hseed]
    | false => simp [sin64, hzero, h, hseed, inUnitRange_zero64]

/-- Settles O52: R13(a) at +0.0, (b) by the range of `sin64`, and (c) because it is a function. -/
theorem sineMeetsItsLimits : Obligations.SineMeetsItsLimits :=
  ⟨sin64_zero64, fun _ h => inUnitRange_iff.1 (inUnitRange_sin64 h), fun _ _ h => congrArg sin64 h⟩

end Sys2Proof.Machine
end

section
/-! PROOFS. Where the host's writes reach nothing: read-only registers, reserved offsets and `PCMBUF`
(spec/10_state.md R41, R42, spec/20_memory.md R51, R56). -/

namespace Sys2Proof.Machine

/-! ### Where an address falls -/

theorem locate_of_regAt_eq_some (s : State) {a : Nat} {r : Reg} (ha : a < 0x1000) (hr : regAt a = some r) :
    locate s a = .reg r := by
  simp [locate, ha, hr]

theorem locate_of_regAt_eq_none (s : State) {a : Nat} (ha : a < 0x1000) (hr : regAt a = none) :
    locate s a = .unmapped := by
  simp [locate, ha, hr]

/-- With a legal `NSEQ_DEPTH` (R6) the two memories do not meet, so a byte of `PCMBUF` is not one of `NSEQ`. -/
theorem locate_of_inPcm {s : State} {a : Nat} (hn : s.nseqDepth ≤ 4096) (ha : s.inPcm a = true) :
    locate s a = .pcmWord := by
  obtain ⟨hbase, -⟩ := (inPcm_iff s a).1 ha
  have hreg : ¬ a < 0x1000 := by omega
  have hnseq : ¬ s.inNseq a = true := fun h => by
    have hend : a < 0x1000 + s.nseqDepth := ((inNseq_iff s a).1 h).2
    omega
  simp [locate, hreg, hnseq, ha]

/-- The map of R22 ends with `PCM_CAP`: every later offset is reserved (R41). -/
theorem regAt_eq_none_of_le {a : Nat} (h : 0x058 ≤ a) : regAt a = none := by
  unfold regAt
  split
  case h_23 => rfl
  all_goals omega

/-! ### Writes that reach nothing, reads that give 0 -/

theorem busWrite_of_not_writable {a : Nat} {s : State} (data : Word) (h : (locate s a).writable = false) :
    busWrite a data s = .next s := by
  rcases busWrite_cases a data s with ⟨hl, -⟩ | ⟨-, hnext⟩ | ⟨hw, -⟩ | ⟨r, hl, hw, -⟩ | ⟨hl, -⟩
  · rw [hl] at h; cases h
  · exact hnext
  · rw [hw] at h; cases h
  · rw [hl] at h; exact absurd (hw.symm.trans h) nofun
  · rw [hl] at h; cases h

theorem busEvent_write_of_not_writable {a : Word} {s : State} (data : Word) (ha : a.toNat % 4 = 0)
    (h : (locate s a.toNat).writable = false) : busEvent (.write 4 a data) s = .next s := by
  simpa [busEvent, aligned, ha] using busWrite_of_not_writable data h

/-- A busy read counts one open value even where the value is not open (log 7), so the count is left free. -/
theorem busEvent_read_of_unmapped {a : Word} {s : State} (ha : a.toNat % 4 = 0)
    (h : locate s a.toNat = .unmapped) :
    ∃ c, busEvent (.read 4 a) s = .next { s with readLog := 0#32 :: s.readLog, freeCount := c } := by
  cases hb : s.status.busy with
  | true => exact ⟨s.freeCount + 1, by simp [busEvent, aligned, ha, busRead, hb, busyRead, h]⟩
  | false => exact ⟨s.freeCount, by simp [busEvent, aligned, ha, busRead, hb, idleRead, h]⟩

/-! ### The read-only registers -/

/-- The offsets of the registers that R42 lists. -/
def readOnlyOffsets : List Nat := [0x004, 0x008, 0x02C, 0x030, 0x034, 0x038, 0x03C, 0x048, 0x04C, 0x050, 0x054]

theorem readOnlyOffsets_spec :
    ∀ a ∈ readOnlyOffsets, a < 0x1000 ∧ a % 4 = 0 ∧ (regAt a).map Reg.writable = some false := by decide

theorem locate_not_writable_of_readOnly (s : State) {a : Nat} (h : a ∈ readOnlyOffsets) :
    (locate s a).writable = false := by
  obtain ⟨hlt, -, hmap⟩ := readOnlyOffsets_spec a h
  obtain ⟨r, hr, hw⟩ := Option.map_eq_some_iff.1 hmap
  rw [locate_of_regAt_eq_some s hlt hr]
  exact hw

/-- Settles O38: each of the three kinds of address falls on a location that is not writable, and a reserved
offset on one with nothing behind it. -/
theorem readOnlyAndReservedIgnoreWrites : Obligations.ReadOnlyAndReservedIgnoreWrites := by
  refine ⟨fun s a data hro => ?readOnly, fun s a data ha hlow hhigh => ?reserved,
    fun s a data hn ha hlow hhigh => ?pcmbuf⟩
  case readOnly =>
    obtain ⟨-, halign, -⟩ := readOnlyOffsets_spec a.toNat hro
    exact busEvent_write_of_not_writable data halign (locate_not_writable_of_readOnly s hro)
  case reserved =>
    have hl : locate s a.toNat = .unmapped := locate_of_regAt_eq_none s (by omega) (regAt_eq_none_of_le hlow)
    exact ⟨busEvent_write_of_not_writable data ha (by rw [hl]; rfl), busEvent_read_of_unmapped ha hl⟩
  case pcmbuf =>
    have hl : locate s a.toNat = .pcmWord := locate_of_inPcm hn ((inPcm_iff s a.toNat).2 ⟨hlow, hhigh⟩)
    exact busEvent_write_of_not_writable data ha (by rw [hl]; rfl)

end Sys2Proof.Machine
end

section
/-! PROOFS. Where nothing is: the addresses between the end of `NSEQ` and `PCM_BASE`, and those from the end
of `PCMBUF` on (spec/20_memory.md R50, R51). -/

namespace Sys2Proof.Machine

/-- A legal `NSEQ_DEPTH` (R6) ends below `PCM_BASE`, so that an address past the end of `PCMBUF` is past the
end of `NSEQ` too. -/
theorem locate_of_unmappedAddr {s : State} {a : Nat} (hn : s.nseqDepth ≤ 4096) (ha : unmappedAddr s a) :
    locate s a = .unmapped := by
  have houtside : 0x1000 + s.nseqDepth ≤ a ∧ (a < 0x01000000 ∨ 0x01000000 + 2 * s.pcmDepth ≤ a) := by
    rcases ha with ⟨hafterNseq, hbeforePcm⟩ | hafterPcm
    · exact ⟨hafterNseq, .inl hbeforePcm⟩
    · exact ⟨by omega, .inr hafterPcm⟩
  obtain ⟨hafterNseq, hnotPcm⟩ := houtside
  have hreg : ¬ a < 0x1000 := by omega
  have hnseq : ¬ s.inNseq a = true := fun h => by
    have hend : a < 0x1000 + s.nseqDepth := ((inNseq_iff s a).1 h).2
    omega
  have hpcm : ¬ s.inPcm a = true := fun h => by
    have hwindow : 0x01000000 ≤ a ∧ a < 0x01000000 + 2 * s.pcmDepth := (inPcm_iff s a).1 h
    omega
  simp [locate, hreg, hnseq, hpcm]

/-- Settles O37: an unmapped address falls on a location with nothing behind it, which is not writable. -/
theorem unmappedReadsZeroAndIgnoresWrites : Obligations.UnmappedReadsZeroAndIgnoresWrites := by
  intro s a data hn ha hunmapped
  have hl : locate s a.toNat = .unmapped := locate_of_unmappedAddr hn hunmapped
  exact ⟨busEvent_read_of_unmapped ha hl, busEvent_write_of_not_writable data ha (by rw [hl]; rfl)⟩

end Sys2Proof.Machine
end

section
/-! PROOFS. The decoder and the opcode map by the fields of the command word (spec/30_encoding.md R81 to
R86): a word matches a row when its fields are the row's, and the decoder reads the same fields. -/

namespace Sys2Proof

/-! ### The fields of a word (R81) -/

theorem fieldOp_eq (w : Word) : fieldOp w = w.toNat / 2 ^ 28 := by
  simp only [fieldOp, BitVec.extractLsb'_toNat, Nat.shiftRight_eq_div_pow]
  omega

theorem fieldRsv_eq (w : Word) : fieldRsv w = w.toNat / 2 ^ 6 % 2 ^ 22 := by
  simp only [fieldRsv, BitVec.extractLsb'_toNat, Nat.shiftRight_eq_div_pow]

theorem fieldSh_eq (w : Word) : fieldSh w = w.toNat / 2 ^ 4 % 2 ^ 2 := by
  simp only [fieldSh, BitVec.extractLsb'_toNat, Nat.shiftRight_eq_div_pow]

theorem fieldNote_eq (w : Word) : fieldNote w = w.toNat % 2 ^ 4 := by
  simp only [fieldNote, BitVec.extractLsb'_toNat, Nat.shiftRight_zero]

theorem fieldSh_lt (w : Word) : fieldSh w < 4 := (w.extractLsb' 4 2).isLt

/-- The four fields are the whole word. -/
theorem word_eq_iff_fields {w v : Word} :
    w = v ↔ fieldOp w = fieldOp v ∧ fieldRsv w = fieldRsv v ∧ fieldSh w = fieldSh v ∧
      fieldNote w = fieldNote v := by
  rw [← BitVec.toNat_inj]
  simp only [fieldOp_eq, fieldRsv_eq, fieldSh_eq, fieldNote_eq]
  omega

/-- The mask of a row with an operand clears the `NOTE` field and keeps the others. -/
theorem fields_and_noteMask (w : Word) :
    fieldOp (w &&& 0xFFFFFFF0#32) = fieldOp w ∧ fieldRsv (w &&& 0xFFFFFFF0#32) = fieldRsv w ∧
      fieldSh (w &&& 0xFFFFFFF0#32) = fieldSh w ∧ fieldNote (w &&& 0xFFFFFFF0#32) = 0 := by
  simp only [fieldOp, fieldRsv, fieldSh, fieldNote, BitVec.extractLsb'_and]
  exact ⟨congrArg _ BitVec.and_allOnes, congrArg _ BitVec.and_allOnes, congrArg _ BitVec.and_allOnes,
    congrArg _ BitVec.and_zero⟩

theorem ne_zero_of_fieldOp_ne_zero {w : Word} (h : fieldOp w ≠ 0) : w ≠ 0x00000000#32 := by
  rintro rfl
  exact h rfl

/-! ### The rows (R85) -/

/-- A row has one of two masks, and its match has `RSV` and `NOTE` 0. -/
theorem opcodeRow_mask_and_zero_fields (i : Instr) :
    ((opcodeRow i).2 = 0xFFFFFFFF#32 ∨ (opcodeRow i).2 = 0xFFFFFFF0#32) ∧
      fieldRsv (opcodeRow i).1 = 0 ∧ fieldNote (opcodeRow i).1 = 0 := by
  cases i <;> (simp only [opcodeRow]; decide)

/-- A word matches a row when `OP` and `SH` are the row's, `RSV` is 0, and `NOTE` is 0 if the mask has it. -/
theorem matchesRow_iff_fields (w : Word) (i : Instr) :
    w &&& (opcodeRow i).2 = (opcodeRow i).1 ↔
      fieldRsv w = 0 ∧ fieldOp w = fieldOp (opcodeRow i).1 ∧ fieldSh w = fieldSh (opcodeRow i).1 ∧
        ((opcodeRow i).2 = 0xFFFFFFFF#32 → fieldNote w = 0) := by
  obtain ⟨hmask, hrsv, hnote⟩ := opcodeRow_mask_and_zero_fields i
  rcases hmask with hmask | hmask <;> rw [hmask, word_eq_iff_fields, hrsv, hnote]
  · have hall : w &&& 0xFFFFFFFF#32 = w := BitVec.and_allOnes
    rw [hall]
    tauto
  · obtain ⟨hopEq, hrsvEq, hshEq, hnoteEq⟩ := fields_and_noteMask w
    have hne : 0xFFFFFFF0#32 ≠ 0xFFFFFFFF#32 := by decide
    rw [hopEq, hrsvEq, hshEq, hnoteEq]
    tauto

theorem opcodeRow_plookup (note : Nat) : opcodeRow (.plookup note) = (0x10000000#32, 0xFFFFFFF0#32) := rfl

/-- `SH` selects the OSC row whose own `SH` it is, with the mask that leaves `NOTE` out. -/
theorem opcodeRow_decodeOsc {sh : Nat} (h : sh < 4) (note : Nat) :
    fieldOp (opcodeRow (decodeOsc sh note)).1 = 3 ∧ fieldSh (opcodeRow (decodeOsc sh note)).1 = sh ∧
      (opcodeRow (decodeOsc sh note)).2 = 0xFFFFFFF0#32 := by
  interval_cases sh <;> (simp only [decodeOsc, opcodeRow]; decide)

/-- `SH` selects the SYNTH row whose own `SH` it is. -/
theorem opcodeRow_decodeSynth {sh : Nat} (h : sh < 4) :
    fieldOp (opcodeRow (decodeSynth sh)).1 = 5 ∧ fieldSh (opcodeRow (decodeSynth sh)).1 = sh := by
  interval_cases sh <;> decide

/-! ### The decoder, an equation per opcode (R91) -/

/-- A check of the decoder that did not reject the word found its field 0. -/
theorem ok_of_ite_error_eq_ok {n : Nat} {e : IllegalWord} {r : Except IllegalWord Instr} {i : Instr}
    (h : (if n ≠ 0 then .error e else r) = .ok i) : n = 0 ∧ r = .ok i := by
  split at h
  next => cases h
  next hn => exact ⟨not_not.1 hn, h⟩

theorem decodePlain_eq_ok {w : Word} {i j : Instr} :
    decodePlain w i = .ok j ↔ fieldSh w = 0 ∧ fieldNote w = 0 ∧ i = j := by
  unfold decodePlain
  split_ifs <;> simp_all

theorem decode_zero : decode 0x00000000#32 = .ok .nop := rfl

section
variable {w : Word} (hrsv : fieldRsv w = 0)
include hrsv

theorem decode_of_fieldOp_one (hop : fieldOp w = 1) (hsh : fieldSh w = 0) :
    decode w = .ok (.plookup (fieldNote w)) := by
  simp [decode, ne_zero_of_fieldOp_ne_zero, hrsv, hop, hsh]

theorem decode_of_fieldOp_two (hop : fieldOp w = 2) : decode w = decodePlain w .tquant := by
  simp [decode, ne_zero_of_fieldOp_ne_zero, hrsv, hop]

theorem decode_of_fieldOp_three (hop : fieldOp w = 3) :
    decode w = .ok (decodeOsc (fieldSh w) (fieldNote w)) := by
  simp [decode, ne_zero_of_fieldOp_ne_zero, hrsv, hop]

theorem decode_of_fieldOp_four (hop : fieldOp w = 4) : decode w = decodePlain w .pcmq := by
  simp [decode, ne_zero_of_fieldOp_ne_zero, hrsv, hop]

theorem decode_of_fieldOp_five (hop : fieldOp w = 5) (hnote : fieldNote w = 0) :
    decode w = .ok (decodeSynth (fieldSh w)) := by
  simp [decode, ne_zero_of_fieldOp_ne_zero, hrsv, hop, hnote]

theorem decode_of_fieldOp_six (hop : fieldOp w = 6) : decode w = decodePlain w .clear := by
  simp [decode, ne_zero_of_fieldOp_ne_zero, hrsv, hop]

end

/-- What the fields of a word are that decodes, and to which command. -/
theorem decode_ok_cases {w : Word} {i : Instr} (h : decode w = .ok i) :
    (w = 0x00000000#32 ∧ i = .nop) ∨ fieldRsv w = 0 ∧
      ((fieldOp w = 1 ∧ fieldSh w = 0 ∧ i = .plookup (fieldNote w)) ∨
        (fieldSh w = 0 ∧ fieldNote w = 0 ∧
          (fieldOp w = 2 ∧ i = .tquant ∨ fieldOp w = 4 ∧ i = .pcmq ∨ fieldOp w = 6 ∧ i = .clear)) ∨
        (fieldOp w = 3 ∧ i = decodeOsc (fieldSh w) (fieldNote w)) ∨
        (fieldOp w = 5 ∧ fieldNote w = 0 ∧ i = decodeSynth (fieldSh w))) := by
  unfold decode at h
  by_cases hzero : w = 0x00000000#32
  · rw [if_pos hzero] at h
    cases h
    exact .inl ⟨hzero, rfl⟩
  · rw [if_neg hzero] at h
    obtain ⟨hrsv, h⟩ := ok_of_ite_error_eq_ok h
    refine .inr ⟨hrsv, ?_⟩
    split at h
    case h_1 hop =>
      obtain ⟨hsh, h⟩ := ok_of_ite_error_eq_ok h
      cases h
      exact .inl ⟨hop, hsh, rfl⟩
    case h_2 hop =>
      obtain ⟨hsh, hnote, rfl⟩ := decodePlain_eq_ok.1 h
      exact .inr (.inl ⟨hsh, hnote, .inl ⟨hop, rfl⟩⟩)
    case h_3 hop =>
      cases h
      exact .inr (.inr (.inl ⟨hop, rfl⟩))
    case h_4 hop =>
      obtain ⟨hsh, hnote, rfl⟩ := decodePlain_eq_ok.1 h
      exact .inr (.inl ⟨hsh, hnote, .inr (.inl ⟨hop, rfl⟩)⟩)
    case h_5 hop =>
      obtain ⟨hnote, h⟩ := ok_of_ite_error_eq_ok h
      cases h
      exact .inr (.inr (.inr ⟨hop, hnote, rfl⟩))
    case h_6 hop =>
      obtain ⟨hsh, hnote, rfl⟩ := decodePlain_eq_ok.1 h
      exact .inr (.inl ⟨hsh, hnote, .inr (.inr ⟨hop, rfl⟩)⟩)
    case h_7 => cases h

/-! ### The decoder is the opcode map (R85, R86) -/

theorem matchesRow_of_decode {w : Word} {i : Instr} (h : decode w = .ok i) :
    w &&& (opcodeRow i).2 = (opcodeRow i).1 := by
  rcases decode_ok_cases h with ⟨rfl, rfl⟩ | ⟨hrsv, hrow⟩
  · rfl
  · rw [matchesRow_iff_fields]
    rcases hrow with ⟨hop, hsh, rfl⟩ | ⟨hsh, hnote, hplain⟩ | ⟨hop, rfl⟩ | ⟨hop, hnote, rfl⟩
    · rw [opcodeRow_plookup]
      exact ⟨hrsv, hop, hsh, fun hfull => absurd hfull (by decide)⟩
    · rcases hplain with ⟨hop, rfl⟩ | ⟨hop, rfl⟩ | ⟨hop, rfl⟩ <;> exact ⟨hrsv, hop, hsh, fun _ => hnote⟩
    · obtain ⟨hrowOp, hrowSh, hmask⟩ := opcodeRow_decodeOsc (fieldSh_lt w) (fieldNote w)
      exact ⟨hrsv, hop.trans hrowOp.symm, hrowSh.symm, fun hfull => absurd (hmask.symm.trans hfull) (by decide)⟩
    · obtain ⟨hrowOp, hrowSh⟩ := opcodeRow_decodeSynth (fieldSh_lt w)
      exact ⟨hrsv, hop.trans hrowOp.symm, hrowSh.symm, fun _ => hnote⟩

theorem decode_of_matchesRow {w : Word} {i : Instr} (h : w &&& (opcodeRow i).2 = (opcodeRow i).1) :
    ∃ j, decode w = .ok j ∧ opcodeRow j = opcodeRow i := by
  obtain ⟨hrsv, hop, hsh, hnote⟩ := (matchesRow_iff_fields w i).1 h
  cases i with
  | nop =>
    have hzero : w = 0x00000000#32 := word_eq_iff_fields.2 ⟨hop, hrsv, hsh, hnote rfl⟩
    exact ⟨.nop, hzero ▸ decode_zero, rfl⟩
  | plookup note =>
    rw [opcodeRow_plookup] at hop hsh
    exact ⟨_, decode_of_fieldOp_one hrsv hop hsh, by rw [opcodeRow_plookup, opcodeRow_plookup]⟩
  | tquant => exact ⟨_, (decode_of_fieldOp_two hrsv hop).trans (decodePlain_eq_ok.2 ⟨hsh, hnote rfl, rfl⟩), rfl⟩
  | pcmq => exact ⟨_, (decode_of_fieldOp_four hrsv hop).trans (decodePlain_eq_ok.2 ⟨hsh, hnote rfl, rfl⟩), rfl⟩
  | clear => exact ⟨_, (decode_of_fieldOp_six hrsv hop).trans (decodePlain_eq_ok.2 ⟨hsh, hnote rfl, rfl⟩), rfl⟩
  | oscSin | oscPul | oscSaw | oscSh3 =>
    simp only [opcodeRow] at hop hsh
    exact ⟨_, decode_of_fieldOp_three hrsv hop, by rw [hsh]; rfl⟩
  | synthSin | synthPul | synthSaw | synthSh3 =>
    exact ⟨_, decode_of_fieldOp_five hrsv hop (hnote rfl), by rw [hsh]; rfl⟩

/-- A word decodes to one command, so the rows that it matches are that command's. -/
theorem opcodeRow_eq_of_matchesRow {w : Word} {i j : Instr} (hi : w &&& (opcodeRow i).2 = (opcodeRow i).1)
    (hj : w &&& (opcodeRow j).2 = (opcodeRow j).1) : opcodeRow i = opcodeRow j := by
  obtain ⟨k, hk, hrowk⟩ := decode_of_matchesRow hi
  obtain ⟨l, hl, hrowl⟩ := decode_of_matchesRow hj
  obtain rfl : k = l := Except.ok.inj (hk.symm.trans hl)
  exact hrowk.symm.trans hrowl

/-- Settles O3: match and decoder are compared field by field; the last two clauses follow from the second. -/
theorem decoderIsTheOpcodeMap : Obligations.DecoderIsTheOpcodeMap := by
  refine ⟨?rows, fun w i => ⟨decode_of_matchesRow, ?decodes⟩, fun w i j => opcodeRow_eq_of_matchesRow, ?illegal⟩
  case rows => exact ⟨rfl, rfl, rfl, rfl, rfl, rfl, rfl, rfl, fun c => ⟨rfl, rfl, rfl, rfl, rfl⟩⟩
  case decodes =>
    rintro ⟨j, hj, hrow⟩
    rw [← hrow]
    exact matchesRow_of_decode hj
  case illegal =>
    intro w hnone
    cases hw : decode w with
    | ok i => exact absurd (matchesRow_of_decode hw) (hnone i)
    | error e => exact ⟨e, rfl⟩

end Sys2Proof
end

section
/-! PROOFS. The pitch ROM (spec/41_pitch_rom.md): a value is nearest to a real number that lies between the
half-way points to its two neighbours. The pitch is a twelfth root, so an entry's half-way points are compared
with it by their twelfth powers, which are whole numbers. -/

namespace Sys2Proof.Machine

/-! ### The neighbours of a binary64 value -/

/-- The magnitude just below that of a nonzero value, in units of 2^-1074. -/
def unitsBelow (f : F64) : Nat := unitsOfMag (f64Mag f - 1)

/-- The magnitude just above, in units of 2^-1074. -/
def unitsAbove (f : F64) : Nat := unitsOfMag (f64Mag f + 1)

/-- No value lies strictly between a positive value and its neighbours. -/
theorem f64Int_neighbours {f : F64} (hpos : 0 < f64Mag f) (y : F64) :
    f64Int y ≤ unitsBelow f ∨ f64Int y = f64Units f ∨ (unitsAbove f : Int) ≤ f64Int y := by
  cases hy : f64Neg y with
  | true => exact .inl (by rw [f64Int_of_neg hy]; omega)
  | false =>
    rw [f64Int_of_not_neg hy]
    rcases lt_trichotomy (f64Mag y) (f64Mag f) with hlt | heq | hgt
    · exact .inl (Int.ofNat_le.2 (unitsOfMag_strictMono.monotone (by omega)))
    · exact .inr (.inl (congrArg (fun m => (unitsOfMag m : Int)) heq))
    · exact .inr (.inr (Int.ofNat_le.2 (unitsOfMag_strictMono.monotone hgt)))

/-- `x` lies between the half-way points from the positive value `f` to its neighbours. -/
def BetweenHalfways (f : F64) (x : ℝ) : Prop :=
  ((unitsBelow f + f64Units f : Nat) : ℝ) ≤ 2 * unitsPerOne * x ∧
    2 * unitsPerOne * x ≤ ((f64Units f + unitsAbove f : Nat) : ℝ)

/-- Distances in value are those in units, on the scale of `unitsPerOne`. -/
theorem unitsPerOne_mul_abs_f64Rat_sub (a : F64) (x : ℝ) :
    unitsPerOne * |((f64Rat a : ℚ) : ℝ) - x| = |(f64Int a : ℝ) - unitsPerOne * x| := by
  have hpos : (0 : ℝ) < unitsPerOne := Nat.cast_pos.2 unitsPerOne_pos
  rw [← abs_of_pos hpos, ← abs_mul, abs_of_pos hpos, mul_sub, f64Rat_eq_div, Rat.cast_div, Rat.cast_intCast,
    Rat.cast_natCast, mul_div_cancel₀ _ hpos.ne']

/-- The value `y` is `f` itself, or lies past a neighbour of `f`, and so on the far side of a half-way point. -/
theorem nearest_of_betweenHalfways {f : F64} {x : ℝ} (hneg : f64Neg f = false) (hpos : 0 < f64Mag f)
    (hx : BetweenHalfways f x) (y : F64) :
    |((f64Rat f : ℚ) : ℝ) - x| ≤ |((f64Rat y : ℚ) : ℝ) - x| := by
  have hunit : (0 : ℝ) < unitsPerOne := Nat.cast_pos.2 unitsPerOne_pos
  obtain ⟨hlow, hhigh⟩ := hx
  have hbelow : (unitsBelow f : ℝ) ≤ f64Units f := Nat.cast_le.2 (unitsOfMag_strictMono.monotone (Nat.sub_le _ _))
  have habove : (f64Units f : ℝ) ≤ unitsAbove f := Nat.cast_le.2 (unitsOfMag_strictMono.monotone (Nat.le_succ _))
  rw [← mul_le_mul_iff_right₀ hunit, unitsPerOne_mul_abs_f64Rat_sub, unitsPerOne_mul_abs_f64Rat_sub,
    f64Int_of_not_neg hneg, Int.cast_natCast]
  push_cast at hlow hhigh
  rcases f64Int_neighbours hpos y with hle | heq | hge
  · have hy : (f64Int y : ℝ) ≤ unitsBelow f := by exact_mod_cast hle
    rw [abs_of_nonpos (a := (f64Int y : ℝ) - _) (by linarith), abs_le]
    constructor <;> linarith
  · rw [heq, Int.cast_natCast]
  · have hy : (unitsAbove f : ℝ) ≤ f64Int y := by exact_mod_cast hge
    rw [abs_of_nonneg (a := (f64Int y : ℝ) - _) (by linarith), abs_le]
    constructor <;> linarith

/-! ### The pitch of a note (R100) -/

/-- The frequency of note `i` in equal temperament. -/
noncomputable def pitch (i : Nat) : ℝ := 440 * (2 : ℝ) ^ (((i : ℝ) - 10) / 12)

theorem pitch_pos (i : Nat) : 0 < pitch i := by
  unfold pitch
  positivity

/-- Twelve semitones are an octave. -/
theorem pitch_pow_twelve (i : Nat) : pitch i ^ 12 * 2 ^ 10 = 440 ^ 12 * 2 ^ i := by
  have hroot : ((2 : ℝ) ^ (((i : ℝ) - 10) / 12)) ^ 12 * 2 ^ 10 = 2 ^ i := by
    rw [← Real.rpow_mul_natCast two_pos.le, ← Real.rpow_natCast 2 10, ← Real.rpow_natCast 2 i,
      ← Real.rpow_add two_pos]
    congr 1
    push_cast
    ring
  rw [pitch, mul_pow, mul_assoc, hroot]

/-- A scaled pitch, to the twelfth power, is a whole number up to the factor 2^10. -/
theorem scaled_pitch_pow_twelve (u i : Nat) :
    (2 * u * pitch i) ^ 12 * 2 ^ 10 = (((880 * u) ^ 12 * 2 ^ i : Nat) : ℝ) := by
  rw [mul_pow, mul_assoc, pitch_pow_twelve]
  push_cast
  ring

theorem natCast_le_scaled_pitch {a u i : Nat} (h : a ^ 12 * 2 ^ 10 ≤ (880 * u) ^ 12 * 2 ^ i) :
    (a : ℝ) ≤ 2 * u * pitch i := by
  have hpitch := pitch_pos i
  have hpow : (a : ℝ) ^ 12 * 2 ^ 10 ≤ (2 * u * pitch i) ^ 12 * 2 ^ 10 := by
    rw [scaled_pitch_pow_twelve]
    exact_mod_cast h
  exact le_of_pow_le_pow_left₀ (by norm_num) (by positivity) (le_of_mul_le_mul_right hpow (by positivity))

theorem scaled_pitch_le_natCast {a u i : Nat} (h : (880 * u) ^ 12 * 2 ^ i ≤ a ^ 12 * 2 ^ 10) :
    2 * u * pitch i ≤ (a : ℝ) := by
  have hpow : (2 * u * pitch i) ^ 12 * 2 ^ 10 ≤ (a : ℝ) ^ 12 * 2 ^ 10 := by
    rw [scaled_pitch_pow_twelve]
    exact_mod_cast h
  exact le_of_pow_le_pow_left₀ (by norm_num) a.cast_nonneg (le_of_mul_le_mul_right hpow (by positivity))

/-! ### The entries of the ROM (R100) -/

theorem promTable_getElem_positive :
    ∀ (i : Nat) (hi : i < promTable.length), 0 < i →
      isFinite promTable[i] = true ∧ f64Neg promTable[i] = false ∧ 0 < f64Mag promTable[i] := by decide +kernel

/-- Each entry's half-way points and the pitch, to the twelfth power. -/
theorem promTable_halfways_pow_twelve :
    ∀ (i : Nat) (hi : i < promTable.length), 0 < i →
      (unitsBelow promTable[i] + f64Units promTable[i]) ^ 12 * 2 ^ 10 ≤ (880 * unitsPerOne) ^ 12 * 2 ^ i ∧
        (880 * unitsPerOne) ^ 12 * 2 ^ i ≤ (f64Units promTable[i] + unitsAbove promTable[i]) ^ 12 * 2 ^ 10 := by
  decide +kernel

theorem pitch_betweenHalfways {i : Nat} (hi : i < promTable.length) (hpos : 0 < i) :
    BetweenHalfways promTable[i] (pitch i) := by
  obtain ⟨hlow, hhigh⟩ := promTable_halfways_pow_twelve i hi hpos
  exact ⟨natCast_le_scaled_pitch hlow, scaled_pitch_le_natCast hhigh⟩

/-- Settles O49: the pitch of each note lies between the half-way points from its entry to the neighbours. -/
theorem pitchRomIsNearestToEqualTemperament : Obligations.PitchRomIsNearestToEqualTemperament := by
  refine ⟨rfl, fun i f y hpos _ hf _ => ?_⟩
  obtain ⟨hi, rfl⟩ := List.getElem?_eq_some_iff.1 hf
  obtain ⟨hfin, hneg, hmag⟩ := promTable_getElem_positive i hi hpos
  exact ⟨hfin, nearest_of_betweenHalfways hneg hmag (pitch_betweenHalfways hi hpos) y⟩

end Sys2Proof.Machine
end

section
/-! PROOFS. PLOOKUP (spec/41_pitch_rom.md R103): its words, and its two outcomes. -/

namespace Sys2Proof.Machine

/-! ### The words of PLOOKUP (R85) -/

theorem decode_eq_plookup_iff_fields {w : Word} {c : Nat} :
    decode w = .ok (.plookup c) ↔ fieldRsv w = 0 ∧ fieldOp w = 1 ∧ fieldSh w = 0 ∧ fieldNote w = c := by
  constructor
  · intro h
    obtain ⟨hrsv, hop, hsh, -⟩ := (matchesRow_iff_fields w (.plookup c)).1 (matchesRow_of_decode h)
    rw [opcodeRow_plookup] at hop hsh
    rw [decode_of_fieldOp_one hrsv hop hsh] at h
    cases h
    exact ⟨hrsv, hop, hsh, rfl⟩
  · rintro ⟨hrsv, hop, hsh, rfl⟩
    exact decode_of_fieldOp_one hrsv hop hsh

theorem decode_eq_plookup_iff (w : Word) (c : Nat) :
    decode w = .ok (.plookup c) ↔ c < 16 ∧ w = BitVec.ofNat 32 (0x10000000 + c) := by
  rw [decode_eq_plookup_iff_fields, fieldRsv_eq, fieldOp_eq, fieldSh_eq, fieldNote_eq, ← BitVec.toNat_inj,
    BitVec.toNat_ofNat]
  omega

/-! ### Its outcomes (R101, R103) -/

theorem exec_plookup_of_some {c : Nat} {f : F64} (s : State) (h : frequencyOf c = some f) :
    exec (.plookup c) s = .next ({ s with freq := f } : State).complete := by
  simp only [exec, execPlookup, h]

theorem exec_plookup_of_none {c : Nat} (s : State) (h : frequencyOf c = none) :
    exec (.plookup c) s = .next (s.raise .invalidNoteSymbol (noteInfo c 0)) := by
  simp only [exec, execPlookup, h]

/-- `ERRINFO` of a note that was given in the command: its code, and the index 0 (R101). -/
theorem noteInfo_index_zero {c : Nat} (h : c < 256) : noteInfo c 0 = BitVec.ofNat 32 (c * 65536) := by
  apply BitVec.eq_of_toNat_eq
  simp only [noteInfo, BitVec.or_zero, BitVec.toNat_shiftLeft, BitVec.toNat_ofNat, Nat.shiftLeft_eq]
  omega

/-- Settles O9: the word by its fields, the outcome by whether the ROM has an entry for the note. -/
theorem plookupWritesTheRomEntry : Obligations.PlookupWritesTheRomEntry := by
  refine ⟨decode_eq_plookup_iff, fun s c f hc hf => ?entry, fun s c hlow hhigh => ?error, rfl, rfl⟩
  case entry => exact exec_plookup_of_some s ((frequencyOf_of_le hc).trans hf)
  case error =>
    rw [exec_plookup_of_none s ((frequencyOf_eq_none c).2 hlow), noteInfo_index_zero (by omega)]
    rfl

end Sys2Proof.Machine
end

section
/-! PROOFS. Host writes that reach a register while idle, and the two halves of `BPM`
(spec/20_memory.md R54, spec/42_time_quantizer.md R113). -/

namespace Sys2Proof.Machine

/-! ### An accepted write to a register -/

theorem busWrite_of_idle_of_writable {a : Nat} {r : Reg} {s : State} (data : Word)
    (hl : locate s a = .reg r) (hw : r.writable = true) (hcmd : r ≠ .cmd) (hidle : s.status.busy = false) :
    busWrite a data s = .next (writeReg r data s) := by
  rcases busWrite_cases a data s with ⟨hl', -⟩ | ⟨hw', -⟩ | ⟨-, -, hbusy, -⟩ | ⟨q, hl', -, -, -, hnext⟩ | ⟨hl', -⟩
  · exact absurd (Location.reg.inj (hl.symm.trans hl')) hcmd
  · rw [hl] at hw'; exact absurd (hw.symm.trans hw') nofun
  · exact absurd (hidle.symm.trans hbusy) nofun
  · rw [hnext, Location.reg.inj (hl.symm.trans hl')]
  · rw [hl] at hl'; cases hl'

/-- While idle, a write in the contract (R52) to an RW register stores what `writeReg` gives (R54). -/
theorem busEvent_write_of_regAt {a : Word} {r : Reg} {s : State} (data : Word) (halign : a.toNat % 4 = 0)
    (hlt : a.toNat < 0x1000) (hr : regAt a.toNat = some r) (hw : r.writable = true) (hcmd : r ≠ .cmd)
    (hidle : s.status.busy = false) :
    busEvent (.write 4 a data) s = .next (writeReg r data s) := by
  simpa [busEvent, aligned, halign] using
    busWrite_of_idle_of_writable data (locate_of_regAt_eq_some s hlt hr) hw hcmd hidle

/-! ### The halves of `BPM` (R113) -/

theorem writeReg_bpmLo (data : Word) (s : State) :
    writeReg .bpmLo data s =
      { s with bpm := s.bpm.extractLsb' 32 32 ++ data, status := { s.status with axv := false } } := rfl

theorem writeReg_bpmHi (data : Word) (s : State) :
    writeReg .bpmHi data s =
      { s with bpm := data ++ s.bpm.extractLsb' 0 32, status := { s.status with axv := false } } := rfl

/-- Settles O33: each offset holds an RW register, so an idle write reaches `writeReg`, which stores the half
and clears `AXV` without looking at the value that was there. -/
theorem bpmWriteClearsAxv : Obligations.BpmWriteClearsAxv := by
  refine fun s data hidle => ⟨?low, ?high⟩
  case low =>
    rw [← writeReg_bpmLo]
    exact busEvent_write_of_regAt data (by decide) (by decide) rfl rfl nofun hidle
  case high =>
    rw [← writeReg_bpmHi]
    exact busEvent_write_of_regAt data (by decide) (by decide) rfl rfl nofun hidle

end Sys2Proof.Machine
end

section
/-! PROOFS. OSC.SH3 (spec/43_oscillator.md R138): its words, and the checks of R135 in their order, of which the
first that fails decides. -/

namespace Sys2Proof.Machine

/-! ### The words of OSC.SH3 (R85) -/

theorem opcodeRow_oscSh3 (note : Nat) : opcodeRow (.oscSh3 note) = (0x30000030#32, 0xFFFFFFF0#32) := rfl

theorem decode_eq_oscSh3_iff_fields {w : Word} {c : Nat} :
    decode w = .ok (.oscSh3 c) ↔ fieldRsv w = 0 ∧ fieldOp w = 3 ∧ fieldSh w = 3 ∧ fieldNote w = c := by
  have hdecode (hrsv : fieldRsv w = 0) (hop : fieldOp w = 3) (hsh : fieldSh w = 3) :
      decode w = .ok (.oscSh3 (fieldNote w)) := by
    rw [decode_of_fieldOp_three hrsv hop, hsh]
    rfl
  constructor
  · intro h
    obtain ⟨hrsv, hop, hsh, -⟩ := (matchesRow_iff_fields w (.oscSh3 c)).1 (matchesRow_of_decode h)
    rw [opcodeRow_oscSh3] at hop hsh
    rw [hdecode hrsv hop hsh] at h
    cases h
    exact ⟨hrsv, hop, hsh, rfl⟩
  · rintro ⟨hrsv, hop, hsh, rfl⟩
    exact hdecode hrsv hop hsh

theorem decode_eq_oscSh3_iff (w : Word) (c : Nat) :
    decode w = .ok (.oscSh3 c) ↔ c < 16 ∧ w = BitVec.ofNat 32 (0x30000030 + c) := by
  rw [decode_eq_oscSh3_iff_fields, fieldRsv_eq, fieldOp_eq, fieldSh_eq, fieldNote_eq, ← BitVec.toNat_inj,
    BitVec.toNat_ofNat]
  omega

/-! ### The checks of an OSC command, an equation per failure (R135) -/

section
variable (sh : Option Wave) {c : Nat} {s : State}

theorem oscCommand_of_note_invalid (hnote : 12 < c) :
    oscCommand sh c s = s.raise .invalidNoteSymbol (noteInfo c 0) := by
  simp only [oscCommand, (frequencyOf_eq_none c).2 hnote]

theorem oscCommand_of_axis_not_ready (hnote : c ≤ 12) (haxv : s.status.axv = false) :
    oscCommand sh c s = s.raise .axisNotReady 0x00000000#32 := by
  obtain ⟨f, hf⟩ := frequencyOf_isSome hnote
  simp only [oscCommand, hf, if_pos haxv]

theorem oscCommand_of_index_out_of_range (hnote : c ≤ 12) (haxv : s.status.axv = true)
    (hidx : s.nsamp.toNat ≤ s.kidx.toNat) :
    oscCommand sh c s = s.raise .indexRange 0x00000000#32 := by
  obtain ⟨f, hf⟩ := frequencyOf_isSome hnote
  simp only [oscCommand, hf, if_neg (ne_false_of_eq_true haxv), if_pos hidx]

/-- With every earlier check passed, `SH = 3` names no waveform (R138). -/
theorem oscCommand_none_of_checks_passed (hnote : c ≤ 12) (haxv : s.status.axv = true)
    (hidx : s.kidx.toNat < s.nsamp.toNat) :
    oscCommand none c s = s.raise .invalidWaveformKind 0x00000000#32 := by
  obtain ⟨f, hf⟩ := frequencyOf_isSome hnote
  simp only [oscCommand, hf, if_neg (ne_false_of_eq_true haxv), if_neg hidx.not_ge]

end

/-! ### The outcome of OSC.SH3 (R138) -/

theorem exec_oscSh3 (c : Nat) (s : State) : exec (.oscSh3 c) s = .next (oscCommand none c s) := rfl

/-- Settles O13: the word by its fields, the outcome by the first check of R135 that fails. -/
theorem oscSh3RaisesInvalidWaveformKind : Obligations.OscSh3RaisesInvalidWaveformKind := by
  refine ⟨decode_eq_oscSh3_iff, fun s c hnote haxv hidx => ?kind, fun s c hlow hhigh => ?note,
    fun s c hnote haxv => ?axis, fun s c hnote haxv hidx => ?index⟩
  case kind =>
    rw [exec_oscSh3, oscCommand_none_of_checks_passed hnote haxv hidx]
    rfl
  case note =>
    rw [exec_oscSh3, oscCommand_of_note_invalid none hlow, noteInfo_index_zero (by omega)]
    rfl
  case axis =>
    rw [exec_oscSh3, oscCommand_of_axis_not_ready none hnote haxv]
    rfl
  case index =>
    rw [exec_oscSh3, oscCommand_of_index_out_of_range none hnote haxv hidx]
    rfl

end Sys2Proof.Machine
end

section
/-! PROOFS. SYNTH.SH3 (spec/45_sequencer.md R166): its word, and the checks of R160 in their order, of which the
first that fails decides. -/

namespace Sys2Proof.Machine

/-! ### The words of commands without an operand (R85) -/

/-- Where the mask of a row has every bit, one word decodes to its command: the match of the row. -/
theorem eq_opcodeRow_of_decode {w : Word} {i : Instr} (hmask : (opcodeRow i).2 = 0xFFFFFFFF#32)
    (h : decode w = .ok i) : w = (opcodeRow i).1 := by
  rw [← matchesRow_of_decode h, hmask]
  exact BitVec.and_allOnes.symm

theorem decode_eq_synthSh3_iff (w : Word) : decode w = .ok .synthSh3 ↔ w = 0x50000030#32 := by
  constructor
  · exact eq_opcodeRow_of_decode rfl
  · rintro rfl
    rfl

/-! ### The note that fails (R160) -/

/-- The lowest index with a bad code is the one the scan finds. -/
theorem firstBadNote_of_lowest {s : State} {nc j : Nat} (hlt : j < nc) (hbad : 12 < s.noteCode j)
    (hlow : ∀ i, i < j → s.noteCode i ≤ 12) : firstBadNote s nc = some j := by
  rw [firstBadNote, List.find?_range_eq_some]
  exact ⟨by simpa using hbad, by simpa using hlt, fun i hi => by simpa using hlow i hi⟩

/-- The scan reads `NSEQ` alone, so that `OUTLEN` is cleared before it makes no difference. -/
theorem firstBadNote_with_outlen (s : State) (v : Word) (nc : Nat) :
    firstBadNote { s with outlen := v } nc = firstBadNote s nc := rfl

/-- `ERRINFO` of a note of the sequence: code and index do not overlap (R160). -/
theorem noteInfo_eq_add {c j : Nat} (hc : c < 256) (hj : j < 2 ^ 16) :
    noteInfo c j = BitVec.ofNat 32 (c * 65536 + j) := by
  apply BitVec.eq_of_toNat_eq
  have hshift : c <<< 16 < 2 ^ 32 := by omega
  simp only [noteInfo, BitVec.toNat_or, BitVec.toNat_shiftLeft, BitVec.toNat_ofNat, Nat.mod_eq_of_lt hc,
    Nat.mod_eq_of_lt (show c < 2 ^ 32 by omega), Nat.mod_eq_of_lt (show j < 2 ^ 32 by omega),
    Nat.mod_eq_of_lt hshift, ← Nat.shiftLeft_add_eq_or_of_lt hj]
  omega

theorem noteCode_lt (s : State) (j : Nat) : s.noteCode j < 256 := (s.readByte (nseqBase + j)).isLt

/-! ### The checks of `synth_start`, an equation per failure (R160) -/

section
variable (sh : Option Wave) {s : State}

theorem synthStart_of_ncount_exceeds (hcount : s.nseqDepth < s.ncount.toNat) :
    synthStart sh s = ({ s with outlen := 0#32 } : State).raise .capacityExceeded 0#32 :=
  if_pos hcount

variable (hcount : s.ncount.toNat ≤ s.nseqDepth)
include hcount

theorem synthStart_of_note_invalid {j : Nat} (hbad : firstBadNote s s.ncount.toNat = some j) :
    synthStart sh s =
      ({ s with outlen := 0#32 } : State).raise .invalidNoteSymbol (noteInfo (s.noteCode j) j) := by
  refine (if_neg hcount.not_gt).trans ?_
  rw [firstBadNote_with_outlen, hbad]
  rfl

variable (hnotes : ∀ j, j < s.ncount.toNat → s.noteCode j ≤ 12)
include hnotes

theorem synthStart_of_tempo_invalid (haxis : axis s.bpm = none) :
    synthStart sh s = ({ s with outlen := 0#32 } : State).raiseTempo := by
  refine (if_neg hcount.not_gt).trans ?_
  rw [firstBadNote_with_outlen, (firstBadNote_eq_none s _).2 hnotes]
  dsimp only
  rw [haxis]

/-- With the notes and the tempo valid, `SH = 3` names no waveform, and the new axis stands (R166). -/
theorem synthStart_none_of_checks_passed {d : F64} {n : Nat} (haxis : axis s.bpm = some (d, n)) :
    synthStart none s =
      (({ s with outlen := 0#32 } : State).setAxis d n).raise .invalidWaveformKind 0#32 := by
  refine (if_neg hcount.not_gt).trans ?_
  rw [firstBadNote_with_outlen, (firstBadNote_eq_none s _).2 hnotes]
  dsimp only
  rw [haxis]

end

/-! ### The outcome of SYNTH.SH3 (R166) -/

theorem exec_synthSh3 (s : State) : exec .synthSh3 s = .next (synthStart none s) := rfl

/-- Every check comes before the first write to `PCMBUF` (R160), so the first step stores no byte. -/
theorem readByte_synthStart (sh : Option Wave) (s : State) (a : Nat) :
    (synthStart sh s).readByte a = s.readByte a := by
  rcases synthStart_cases sh s with ⟨-, heq⟩ | ⟨j, -, -, heq⟩ | ⟨-, -, -, heq⟩ | ⟨d, n, -, -, -,
    ⟨-, heq⟩ | ⟨w, -, -, heq⟩ | ⟨w, -, -, -, heq⟩ | ⟨w, -, -, -, -, heq⟩ | ⟨w, -, -, -, -, heq⟩⟩
  all_goals
    rw [heq]
    rfl

/-- Settles O18: the outcome by the first check of R160 that fails, that of the shape being the last. -/
theorem synthSh3RaisesInvalidWaveformKind : Obligations.SynthSh3RaisesInvalidWaveformKind := by
  refine ⟨decode_eq_synthSh3_iff, fun s d n hok => ?kind, fun s hcount => ?capacity,
    fun s j hdepth hcount hlt hbad hlow => ?note, fun s hcount hnotes haxis => ?tempo, fun s t hnext a => ?memory⟩
  case kind =>
    obtain ⟨hcount, hnotes, haxis⟩ := hok
    rw [exec_synthSh3, synthStart_none_of_checks_passed hcount hnotes haxis]
    rfl
  case capacity =>
    rw [exec_synthSh3, synthStart_of_ncount_exceeds none hcount]
    rfl
  case note =>
    rw [exec_synthSh3, synthStart_of_note_invalid none hcount (firstBadNote_of_lowest hlt hbad hlow),
      noteInfo_eq_add (noteCode_lt s j) (by omega)]
    rfl
  case tempo =>
    rw [exec_synthSh3, synthStart_of_tempo_invalid none hcount hnotes haxis]
    rfl
  case memory =>
    cases hnext
    exact readByte_synthStart none s a

end Sys2Proof.Machine
end

section
/-! PROOFS. NOP and CLEAR (spec/46_control.md R180, R181): their words, their meanings, and the host's write to
`CMD`, where a NOP runs and a busy block ignores every word. -/

namespace Sys2Proof.Machine

/-! ### Their words (R85, R86) -/

/-- No row but NOP's has `OP` 0, so no other word of that opcode decodes. -/
theorem decode_error_of_fieldOp_zero {w : Word} (hne : w ≠ 0x00000000#32) (hop : fieldOp w = 0) :
    ∃ e, decode w = .error e := by
  cases hw : decode w with
  | error e => exact ⟨e, rfl⟩
  | ok i =>
    rcases decode_ok_cases hw with ⟨hzero, -⟩ | ⟨-, hrow⟩
    · exact absurd hzero hne
    · simp [hop] at hrow

theorem decode_eq_clear_iff (w : Word) : decode w = .ok .clear ↔ w = 0x60000000#32 := by
  constructor
  · exact eq_opcodeRow_of_decode rfl
  · rintro rfl
    rfl

/-! ### Their meanings -/

theorem exec_nop_of_idle {s : State} (hidle : s.status.busy = false) : exec .nop s = .next s :=
  if_neg (ne_true_of_eq_false hidle)

theorem exec_nop_of_busy {s : State} (hbusy : s.status.busy = true) : exec .nop s = .next s.ignoreWrite :=
  if_pos hbusy

theorem exec_clear (s : State) :
    exec .clear s = .next ({ s with status := { s.status with wbusy := false } } : State).completeClear := rfl

/-! ### The host's write to `CMD` (R90) -/

theorem busEvent_write_cmd (w : Word) (s : State) : busEvent (.write 4 0x00000000#32 w) s = issueCommand w s := by
  have hl : locate s 0 = .reg .cmd := locate_of_regAt_eq_some s (by decide) rfl
  simp [busEvent, aligned, busWrite, hl]

theorem busEvent_write_cmd_nop (s : State) : busEvent (.write 4 0x00000000#32 0x00000000#32) s = exec .nop s :=
  (busEvent_write_cmd _ s).trans (if_pos rfl)

/-- While busy the word does not matter (R28, R230). -/
theorem busEvent_write_cmd_of_busy (w : Word) {s : State} (hbusy : s.status.busy = true) :
    busEvent (.write 4 0x00000000#32 w) s = .next s.ignoreWrite := by
  rw [busEvent_write_cmd]
  rcases issueCommand_cases w s with ⟨-, hignore⟩ | ⟨hidle, -⟩ | ⟨hidle, -⟩
  · exact hignore
  all_goals exact absurd (hidle.symm.trans hbusy) nofun

/-! ### Their outcomes -/

/-- Settles O7: the host's write of the word 0 is the meaning of NOP, which looks at `BUSY` alone. -/
theorem nopChangesNothingWhenIdle : Obligations.NopChangesNothingWhenIdle := by
  refine ⟨fun _ => decode_eq_nop, fun w hne hop => ?illegal, fun s hidle => ?idle, fun s hbusy => ?busy⟩
  case illegal => exact decode_error_of_fieldOp_zero hne (congrArg BitVec.toNat hop)
  case idle =>
    rw [busEvent_write_cmd_nop, exec_nop_of_idle hidle]
    exact ⟨rfl, rfl⟩
  case busy =>
    rw [busEvent_write_cmd_nop, exec_nop_of_busy hbusy]
    exact ⟨rfl, rfl⟩

/-- Settles O8: the completion of CLEAR writes the other flags, after CLEAR itself has written `WBUSY`. -/
theorem clearClearsStatusAndErrorInfo : Obligations.ClearClearsStatusAndErrorInfo := by
  refine ⟨decode_eq_clear_iff, fun s => ?clears, fun s hbusy => busEvent_write_cmd_of_busy 0x60000000#32 hbusy⟩
  case clears =>
    rw [exec_clear]
    rfl

end Sys2Proof.Machine
end

section
/-! PROOFS. The host's reads while busy (spec/70_reset_and_hazards.md R232): what `busyRead` gives at each kind of
location. -/

namespace Sys2Proof.Machine

/-! ### Where an address falls -/

/-- Every register of R22 lies in the register window, at a word offset. -/
theorem regAt_some_bounds {a : Nat} {r : Reg} (h : regAt a = some r) : a < 0x1000 ∧ a % 4 = 0 := by
  unfold regAt at h
  split at h
  case h_23 => cases h
  all_goals decide

theorem locate_of_inNseq {s : State} {a : Nat} (ha : s.inNseq a = true) : locate s a = .nseqWord := by
  obtain ⟨hbase, -⟩ := (inNseq_iff s a).1 ha
  have hreg : ¬ a < 0x1000 := by omega
  simp [locate, hreg, ha]

/-! ### The value at each location -/

/-- The registers that R232 lists as having one value while busy, `STATUS` apart. -/
def exactWhileBusy : List Reg :=
  [.ncount, .bpmLo, .bpmHi, .dutyLo, .dutyHi, .widthLo, .widthHi, .kidx, .nseqCap, .pcmCap, .cmd]

theorem exactWhileBusy_spec : ∀ r ∈ exactWhileBusy, r ≠ .status ∧ r.openWhileBusy = false := by decide

section
variable {s : State} {a : Nat} (v : Word)

theorem busyRead_of_status (hl : locate s a = .reg .status) :
    busyRead s a v = (busyStatus s.status (v.getLsbD 3)).word := by
  simp only [busyRead, hl]

theorem busyRead_of_exact {r : Reg} (hl : locate s a = .reg r) (hr : r ∈ exactWhileBusy) :
    busyRead s a v = readReg r s := by
  obtain ⟨hstatus, hopen⟩ := exactWhileBusy_spec r hr
  unfold busyRead
  rw [hl]
  split
  next h => exact absurd (Location.reg.inj h) hstatus
  next h =>
    cases h
    exact if_neg (ne_true_of_eq_false hopen)
  all_goals contradiction

theorem busyRead_of_nseqWord (hl : locate s a = .nseqWord) : busyRead s a v = s.busWord a := by
  simp only [busyRead, hl]

end

/-- `STATUS` with its bit 3, `AXV`, masked out: `BUSY` and the present `WBUSY` are all that is left. -/
theorem busyStatus_word_without_axv (st : Status) (axv : Bool) :
    (busyStatus st axv).word &&& 0xFFFFFFF7#32 = if st.wbusy then 5#32 else 1#32 := by
  rw [busyStatus]
  cases st.wbusy <;> cases axv <;> rfl

/-! ### The read as an event -/

/-- The open value depends on the count of those before it (log 7), so that the read counts one more. -/
theorem busEvent_read_of_busy {s : State} {a : Word} (hbusy : s.status.busy = true) (halign : a.toNat % 4 = 0) :
    busEvent (.read 4 a) s = .next
      { s with
        readLog := busyRead s a.toNat (Config.busyReadWord s.freeCount) :: s.readLog
        freeCount := s.freeCount + 1 } := by
  simp [busEvent, aligned, halign, busRead, hbusy]

/-- Settles O39: a busy read records what `busyRead` gives at the location the address falls on. -/
theorem readsWhileBusy : Obligations.ReadsWhileBusy := by
  refine fun s hbusy => ⟨?status, fun a r hr hexact => ?register, fun a halign hlow hhigh => ?nseq,
    fun a halign hnothing => ?zero, fun a halign => ⟨_, _, busEvent_read_of_busy hbusy halign⟩⟩
  case status =>
    have hl : locate s (4#32).toNat = .reg .status := locate_of_regAt_eq_some s (by decide) rfl
    refine ⟨_, _, busEvent_read_of_busy hbusy rfl, ?_⟩
    rw [busyRead_of_status _ hl, busyStatus_word_without_axv]
  case register =>
    obtain ⟨hlt, halign⟩ := regAt_some_bounds hr
    rw [busEvent_read_of_busy hbusy halign, busyRead_of_exact _ (locate_of_regAt_eq_some s hlt hr) hexact]
    exact ⟨_, rfl⟩
  case nseq =>
    have hl : locate s a.toNat = .nseqWord := locate_of_inNseq ((inNseq_iff s a.toNat).2 ⟨hlow, hhigh⟩)
    rw [busEvent_read_of_busy hbusy halign, busyRead_of_nseqWord _ hl]
    exact ⟨_, rfl⟩
  case zero =>
    refine busEvent_read_of_unmapped halign ?_
    rcases hnothing with ⟨hlow, hhigh⟩ | ⟨hn, hunmapped⟩
    · exact locate_of_regAt_eq_none s (by omega) (regAt_eq_none_of_le hlow)
    · exact locate_of_unmappedAddr hn hunmapped

end Sys2Proof.Machine
end

section
/-! PROOFS. The encoder and the decoder are inverse (spec/30_encoding.md R81, R85), and the words that the
decoder rejects (R86). -/

namespace Sys2Proof

/-! ### The encoder by the fields of its word (R81) -/

theorem toNat_append_eq_add {m n : Nat} (x : BitVec m) (y : BitVec n) :
    (x ++ y).toNat = x.toNat * 2 ^ n + y.toNat := by
  rw [BitVec.toNat_append, ← Nat.shiftLeft_add_eq_or_of_lt y.isLt, Nat.shiftLeft_eq]

theorem commandWord_toNat (op : BitVec 4) (sh : BitVec 2) (note : Nat) :
    (commandWord op sh note).toNat = op.toNat * 2 ^ 28 + sh.toNat * 2 ^ 4 + note % 2 ^ 4 := by
  simp only [commandWord, toNat_append_eq_add, BitVec.toNat_ofNat]
  omega

theorem fields_commandWord (op : BitVec 4) (sh : BitVec 2) (note : Nat) :
    fieldOp (commandWord op sh note) = op.toNat ∧ fieldRsv (commandWord op sh note) = 0 ∧
      fieldSh (commandWord op sh note) = sh.toNat ∧ fieldNote (commandWord op sh note) = note % 2 ^ 4 := by
  have hop := op.isLt
  have hsh := sh.isLt
  rw [fieldOp_eq, fieldRsv_eq, fieldSh_eq, fieldNote_eq, commandWord_toNat]
  omega

/-- The word with `RSV` 0 and the given other fields. -/
theorem eq_commandWord_of_fields {w : Word} {op : BitVec 4} {sh : BitVec 2} {note : Nat} (hrsv : fieldRsv w = 0)
    (hop : fieldOp w = op.toNat) (hsh : fieldSh w = sh.toNat) (hnote : fieldNote w = note % 2 ^ 4) :
    commandWord op sh note = w := by
  obtain ⟨hop', hrsv', hsh', hnote'⟩ := fields_commandWord op sh note
  rw [word_eq_iff_fields, hop', hrsv', hsh', hnote']
  exact ⟨hop.symm, hrsv.symm, hsh.symm, hnote.symm⟩

theorem noteFits_iff {note : Nat} : noteFits note = true ↔ note < 16 := decide_eq_true_iff

theorem fieldNote_lt (w : Word) : fieldNote w < 16 := (w.extractLsb' 0 4).isLt

/-! ### Decoding what was encoded -/

theorem decode_commandWord_plookup {note : Nat} (h : note < 16) :
    decode (commandWord 1#4 0#2 note) = .ok (.plookup note) := by
  obtain ⟨hop, hrsv, hsh, hnote⟩ := fields_commandWord 1#4 0#2 note
  rw [decode_of_fieldOp_one hrsv hop hsh, hnote, Nat.mod_eq_of_lt (show note < 2 ^ 4 from h)]

theorem decode_commandWord_osc (sh : BitVec 2) {note : Nat} (h : note < 16) :
    decode (commandWord 3#4 sh note) = .ok (decodeOsc sh.toNat note) := by
  obtain ⟨hop, hrsv, hsh, hnote⟩ := fields_commandWord 3#4 sh note
  rw [decode_of_fieldOp_three hrsv hop, hsh, hnote, Nat.mod_eq_of_lt (show note < 2 ^ 4 from h)]

/-- Settles O1: a command with an operand by its fields, any other by evaluating its one word. -/
theorem decodeOfEncodeIsTheInstruction : Obligations.DecodeOfEncodeIsTheInstruction := by
  intro i hwf
  cases i with
  | plookup note => exact decode_commandWord_plookup (noteFits_iff.1 hwf)
  | oscSin note => exact decode_commandWord_osc 0#2 (noteFits_iff.1 hwf)
  | oscPul note => exact decode_commandWord_osc 1#2 (noteFits_iff.1 hwf)
  | oscSaw note => exact decode_commandWord_osc 2#2 (noteFits_iff.1 hwf)
  | oscSh3 note => exact decode_commandWord_osc 3#2 (noteFits_iff.1 hwf)
  | nop | tquant | pcmq | synthSin | synthPul | synthSaw | synthSh3 | clear => rfl

/-! ### Encoding what was decoded -/

theorem wf_and_encode_of_osc {w : Word} (hrsv : fieldRsv w = 0) (hop : fieldOp w = 3) :
    (decodeOsc (fieldSh w) (fieldNote w)).wf = true ∧ encode (decodeOsc (fieldSh w) (fieldNote w)) = w := by
  have hnote : fieldNote w % 2 ^ 4 = fieldNote w := Nat.mod_eq_of_lt (fieldNote_lt w)
  have hfits : noteFits (fieldNote w) = true := noteFits_iff.2 (fieldNote_lt w)
  have hlt := fieldSh_lt w
  generalize hsh : fieldSh w = sh at hlt
  interval_cases sh <;> exact ⟨hfits, eq_commandWord_of_fields hrsv hop hsh hnote.symm⟩

theorem wf_and_encode_of_synth {w : Word} (hrsv : fieldRsv w = 0) (hop : fieldOp w = 5) (hnote : fieldNote w = 0) :
    (decodeSynth (fieldSh w)).wf = true ∧ encode (decodeSynth (fieldSh w)) = w := by
  have hlt := fieldSh_lt w
  generalize hsh : fieldSh w = sh at hlt
  interval_cases sh <;> exact ⟨rfl, eq_commandWord_of_fields hrsv hop hsh hnote⟩

/-- Settles O2: the decoder reads every field of a word, and the encoder writes the same fields. -/
theorem decodedWordReencodes : Obligations.DecodedWordReencodes := by
  intro w i h
  rcases decode_ok_cases h with ⟨rfl, rfl⟩ | ⟨hrsv, hrow⟩
  · exact ⟨rfl, rfl⟩
  · rcases hrow with ⟨hop, hsh, rfl⟩ | ⟨hsh, hnote, hplain⟩ | ⟨hop, rfl⟩ | ⟨hop, hnote, rfl⟩
    · exact ⟨noteFits_iff.2 (fieldNote_lt w),
        eq_commandWord_of_fields hrsv hop hsh (Nat.mod_eq_of_lt (fieldNote_lt w)).symm⟩
    · rcases hplain with ⟨hop, rfl⟩ | ⟨hop, rfl⟩ | ⟨hop, rfl⟩ <;>
        exact ⟨rfl, eq_commandWord_of_fields hrsv hop hsh hnote⟩
    · exact wf_and_encode_of_osc hrsv hop
    · exact wf_and_encode_of_synth hrsv hop hnote

/-! ### Legal and illegal words (R85, R86) -/

/-- Settles O5: each word is evaluated. -/
theorem wordsWrittenInTheSpec : Obligations.WordsWrittenInTheSpec := by
  unfold Obligations.WordsWrittenInTheSpec
  decide

/-- What the fields of a word other than 0 are that decodes. -/
theorem exists_decode_ok_iff_fields {w : Word} (hne : w ≠ 0x00000000#32) :
    (∃ i, decode w = .ok i) ↔ fieldRsv w = 0 ∧ 1 ≤ fieldOp w ∧ fieldOp w ≤ 6 ∧
      (fieldSh w ≠ 0 → fieldOp w = 3 ∨ fieldOp w = 5) ∧ (fieldNote w ≠ 0 → fieldOp w = 1 ∨ fieldOp w = 3) := by
  constructor
  · rintro ⟨i, h⟩
    rcases decode_ok_cases h with ⟨hzero, -⟩ | ⟨hrsv, hrow⟩
    · exact absurd hzero hne
    · rcases hrow with ⟨hop, hsh, -⟩ | ⟨hsh, hnote, ⟨hop, -⟩ | ⟨hop, -⟩ | ⟨hop, -⟩⟩ | ⟨hop, -⟩ | ⟨hop, hnote, -⟩ <;> omega
  · rintro ⟨hrsv, hlow, hhigh, hsh, hnote⟩
    have hplain (hop : fieldOp w = 2 ∨ fieldOp w = 4 ∨ fieldOp w = 6) (i : Instr) : decodePlain w i = .ok i :=
      decodePlain_eq_ok.2 ⟨by omega, by omega, rfl⟩
    obtain hop | hop | hop | hop | hop | hop : fieldOp w = 1 ∨ fieldOp w = 2 ∨ fieldOp w = 3 ∨ fieldOp w = 4 ∨
        fieldOp w = 5 ∨ fieldOp w = 6 := by omega
    · exact ⟨_, decode_of_fieldOp_one hrsv hop (by omega)⟩
    · exact ⟨_, (decode_of_fieldOp_two hrsv hop).trans (hplain (by omega) _)⟩
    · exact ⟨_, decode_of_fieldOp_three hrsv hop⟩
    · exact ⟨_, (decode_of_fieldOp_four hrsv hop).trans (hplain (by omega) _)⟩
    · exact ⟨_, decode_of_fieldOp_five hrsv hop (by omega)⟩
    · exact ⟨_, (decode_of_fieldOp_six hrsv hop).trans (hplain (by omega) _)⟩

/-- The decoder is total: it rejects exactly what it gives no command for. -/
theorem exists_decode_error_iff (w : Word) : (∃ e, decode w = .error e) ↔ ¬ ∃ i, decode w = .ok i := by
  cases decode w <;> simp

theorem illegal_iff_fields {w : Word} (hne : w ≠ 0x00000000#32) :
    (∃ e, decode w = .error e) ↔ (fieldOp w = 0 ∨ 7 ≤ fieldOp w) ∨ fieldRsv w ≠ 0 ∨
      (fieldSh w ≠ 0 ∧ fieldOp w ≠ 3 ∧ fieldOp w ≠ 5) ∨ (fieldNote w ≠ 0 ∧ fieldOp w ≠ 1 ∧ fieldOp w ≠ 3) := by
  rw [exists_decode_error_iff, exists_decode_ok_iff_fields hne]
  omega

end Sys2Proof

namespace Sys2Proof.Machine

/-! ### A command write (R90) and the engine's step (R91) -/

/-- While idle a word other than 0 is accepted, legal or not (R86, R90). -/
theorem busEvent_write_cmd_of_idle {w : Word} {s : State} (hidle : s.status.busy = false) (hne : w ≠ 0x00000000#32) :
    busEvent (.write 4 0x00000000#32 w) s = .next (s.accept w) := by
  rw [busEvent_write_cmd]
  rcases issueCommand_cases w s with ⟨hbusy, -⟩ | ⟨-, hzero, -⟩ | ⟨-, -, hnext⟩
  · exact absurd (hidle.symm.trans hbusy) nofun
  · exact absurd hzero hne
  · exact hnext

theorem step_of_turn_engine {s : State} (h : s.turn = .engine) : step s = engineStep s.takeEngineTurn := by
  rw [step, h]

theorem step_of_turn_outside {s : State} {ev : BusEvent} (h : s.turn = .outside ev) :
    step s = busEvent ev s.takeOutsideTurn := by
  rw [step, h]

theorem step_of_turn_idle {s : State} (h : s.turn = .idle) : step s = .next s := by
  rw [step, h]

/-- While idle the outside's turn uses up its event alone. -/
theorem takeOutsideTurn_of_idle {s : State} (hidle : s.status.busy = false) :
    s.takeOutsideTurn = { s with pending := s.pending.tail } := by
  simp [State.takeOutsideTurn, hidle]

/-- Settles O6: whose turn it is decides the step; a NOP's is the outside's. -/
theorem stepRunsTheDecodedCommand : Obligations.StepRunsTheDecodedCommand := by
  refine ⟨fun s i hbusy hturn hdecode => ?engine, fun s rest hidle hpending => ?nop⟩
  case engine =>
    rw [step_of_turn_engine ((turn_eq_engine s).2 ⟨hbusy, hturn⟩)]
    exact engineStep_ok hdecode
  case nop =>
    have hturn : s.turn = .outside (.write 4 0#32 0#32) :=
      (turn_eq_outside s _).2 ⟨by rw [hpending]; rfl, .inl hidle⟩
    rw [step_of_turn_outside hturn, takeOutsideTurn_of_idle hidle, busEvent_write_cmd_nop, hpending, List.tail_cons]

/-- Settles O4: the words by their fields, the acceptance like that of any word, the step by `engineStep`. -/
theorem illegalWordsRaiseIllegalCommand : Obligations.IllegalWordsRaiseIllegalCommand := by
  refine ⟨fun w hne => ?words, fun s w e herror hidle => ?accepted, fun s e hbusy hturn herror => ?raised⟩
  case words =>
    simp only [← BitVec.toNat_inj, ne_eq]
    exact illegal_iff_fields hne
  case accepted =>
    have hne : w ≠ 0x00000000#32 := by
      rintro rfl
      cases herror
    exact busEvent_write_cmd_of_idle hidle hne
  case raised =>
    rw [step_of_turn_engine ((turn_eq_engine s).2 ⟨hbusy, hturn⟩)]
    exact engineStep_error herror

end Sys2Proof.Machine
end

section
/-! PROOFS. What each command writes, said once (spec/10_state.md R35 to R37, R43, spec/20_memory.md R59), and
the statements about registers that no command, or only some command, writes. -/

namespace Sys2Proof.Machine

/-! ### The effect of a command -/

/-- What the meaning of a command may leave: the fields it writes, with any values in them. -/
inductive CommandEffect (s : State) : Instr → State → Prop
  | nop (wbusy : Bool) (hset : s.status.wbusy = true → wbusy = true) :
      CommandEffect s .nop { s with status := { s.status with wbusy := wbusy } }
  | clear (st : Status) (info : Word) (haxv : st.axv = s.status.axv) :
      CommandEffect s .clear { s with status := st, errinfo := info }
  | pcmq (p : Word) (code : BitVec 4) (info : Word) :
      CommandEffect s .pcmq { s with pcm := p, status := doneWith s.status code, errinfo := info }
  | plookup (c : Nat) (f : F64) (code : BitVec 4) (info : Word) :
      CommandEffect s (.plookup c) { s with freq := f, status := doneWith s.status code, errinfo := info }
  | tquant (d : F64) (n : Word) (axv : Bool) (code : BitVec 4) (info : Word) :
      CommandEffect s .tquant
        { s with dur := d, nsamp := n, status := { doneWith s.status code with axv := axv }, errinfo := info }
  | osc (i : Instr) (hi : isOsc i) (f x : F64) (code : BitVec 4) (info : Word) :
      CommandEffect s i { s with freq := f, sample := x, status := doneWith s.status code, errinfo := info }
  | synthStart (i : Instr) (hi : isSynth i) (d : F64) (n o : Word) (st : Status) (info : Word) (e : Engine)
      (hwbusy : st.wbusy = s.status.wbusy) :
      CommandEffect s i { s with dur := d, nsamp := n, outlen := o, status := st, errinfo := info, eng := e }
  | synthStep (w : Wave) (hphase : s.eng.phase = .generate) (v : BitVec 16) (o : Word) (st : Status) (info : Word)
      (e : Engine) (haxv : st.axv = s.status.axv) (hwbusy : st.wbusy = s.status.wbusy) :
      CommandEffect s (synthInstr w)
        { s.writePcm (s.eng.np * s.eng.n + s.eng.kp) v with outlen := o, status := st, errinfo := info, eng := e }

theorem isOsc_oscInstr (w : Wave) (c : Nat) : isOsc (oscInstr w c) := by
  cases w
  · exact ⟨c, .inl rfl⟩
  · exact ⟨c, .inr (.inl rfl)⟩
  · exact ⟨c, .inr (.inr (.inl rfl))⟩

theorem isOsc_oscSh3 (c : Nat) : isOsc (.oscSh3 c) := ⟨c, .inr (.inr (.inr rfl))⟩

theorem isSynth_synthInstr (w : Wave) : isSynth (synthInstr w) := by
  cases w <;> simp [isSynth, synthInstr]

theorem isSynth_synthSh3 : isSynth .synthSh3 := by simp [isSynth]

/-- An OSC command writes `FREQ`, `SAMPLE` and the completion fields (R135). -/
theorem oscCommand_writes (sh : Option Wave) (c : Nat) (s : State) :
    ∃ f x code info, oscCommand sh c s =
      { s with freq := f, sample := x, status := doneWith s.status code, errinfo := info } := by
  rcases oscCommand_cases sh c s with ⟨-, h⟩ | ⟨-, -, h⟩ | ⟨-, -, -, h⟩ | ⟨-, -, -, -, h⟩ | ⟨w, -, -, -, -, -, h⟩ |
    ⟨w, f, -, -, -, -, -, -, h⟩
  all_goals exact ⟨_, _, _, _, h⟩

/-- The first step of a SYNTH writes the axis, `OUTLEN`, the status and the engine's pointers (R160). -/
theorem synthStart_writes (sh : Option Wave) (s : State) :
    ∃ d n o st info e, st.wbusy = s.status.wbusy ∧ synthStart sh s =
      { s with dur := d, nsamp := n, outlen := o, status := st, errinfo := info, eng := e } := by
  rcases synthStart_cases sh s with ⟨-, h⟩ | ⟨j, -, -, h⟩ | ⟨-, -, -, h⟩ | ⟨d, n, -, -, -, ⟨-, h⟩ | ⟨w, -, -, h⟩ |
    ⟨w, -, -, -, h⟩ | ⟨w, -, -, -, -, h⟩ | ⟨w, -, -, -, -, h⟩⟩
  all_goals exact ⟨_, _, _, _, _, _, by rfl, h⟩

/-- Moving the pointers writes the engine's pointers, and at the end `OUTLEN` and the completion fields (R161). -/
theorem advanceSample_writes (s : State) :
    ∃ o st info e, st.axv = s.status.axv ∧ st.wbusy = s.status.wbusy ∧ s.advanceSample =
      { s with outlen := o, status := st, errinfo := info, eng := e } := by
  rcases advanceSample_cases s with ⟨-, h⟩ | ⟨-, -, h⟩ | ⟨-, -, h⟩
  all_goals exact ⟨_, _, _, _, by rfl, by rfl, h⟩

/-- A meaning that goes on has the effect of its command. -/
theorem exec_effect {i : Instr} {s t : State} (h : exec i s = .next t) : CommandEffect s i t := by
  rcases exec_cases h with ⟨rfl, -, rfl⟩ | ⟨rfl, -, rfl⟩ | ⟨rfl, rfl⟩ | ⟨rfl, rfl⟩ | ⟨c, f, rfl, -, rfl⟩ |
    ⟨c, rfl, -, rfl⟩ | ⟨rfl, -, rfl⟩ | ⟨d, n, rfl, -, rfl⟩ | ⟨w, c, rfl, rfl⟩ | ⟨c, rfl, rfl⟩ | ⟨w, rfl, -, rfl⟩ |
    ⟨rfl, rfl⟩ | ⟨w, rfl, hphase, hstep⟩
  · exact .nop t.status.wbusy id
  · exact .nop true fun _ => rfl
  · exact .clear _ _ rfl
  · exact .pcmq _ 0#4 _
  · exact .plookup c f 0#4 _
  · exact .plookup c s.freq 1#4 _
  · exact .tquant s.dur s.nsamp false 2#4 _
  · exact .tquant d _ true 0#4 _
  · obtain ⟨f, x, code, info, h⟩ := oscCommand_writes (some w) c s
    exact h ▸ .osc _ (isOsc_oscInstr w c) f x code info
  · obtain ⟨f, x, code, info, h⟩ := oscCommand_writes none c s
    exact h ▸ .osc _ (isOsc_oscSh3 c) f x code info
  · obtain ⟨d, n, o, st, info, e, hwbusy, h⟩ := synthStart_writes (some w) s
    exact h ▸ .synthStart _ (isSynth_synthInstr w) d n o st info e hwbusy
  · obtain ⟨d, n, o, st, info, e, hwbusy, h⟩ := synthStart_writes none s
    exact h ▸ .synthStart _ isSynth_synthSh3 d n o st info e hwbusy
  · obtain ⟨f, -, -, -, rfl⟩ := synthStep_next hstep
    obtain ⟨o, st, info, e, haxv, hwbusy, h⟩ := advanceSample_writes
      (s.writePcm (s.eng.np * s.eng.n + s.eng.kp) (synthValue w (s.noteCode s.eng.np) f s.eng.kp s))
    rw [h]
    exact .synthStep w hphase _ o st info e haxv hwbusy

/-! ### Registers and their writers -/

/-- Settles O23: of the registers that the host writes, no effect names any but `SAMPLE`, and that only for OSC. -/
theorem commandsKeepTheHostsRegisters : Obligations.CommandsKeepTheHostsRegisters := by
  intro i s t h
  cases exec_effect h with
  | osc i hi => exact ⟨rfl, rfl, rfl, rfl, rfl, fun hn => absurd hi hn⟩
  | nop | clear | pcmq | plookup | tquant | synthStart | synthStep => exact ⟨rfl, rfl, rfl, rfl, rfl, fun _ => rfl⟩

/-- Settles O24: each effect names its result registers; the others are those of the state before. -/
theorem resultRegistersHaveTheirOwnWriters : Obligations.ResultRegistersHaveTheirOwnWriters := by
  intro i s t h
  cases exec_effect h with
  | nop | clear => exact ⟨fun _ _ => rfl, fun _ => rfl, fun _ => rfl, fun _ _ => ⟨rfl, rfl⟩⟩
  | pcmq => exact ⟨fun _ _ => rfl, fun hi => absurd rfl hi, fun _ => rfl, fun _ _ => ⟨rfl, rfl⟩⟩
  | plookup c => exact ⟨fun hi _ => absurd rfl (hi c), fun _ => rfl, fun _ => rfl, fun _ _ => ⟨rfl, rfl⟩⟩
  | tquant => exact ⟨fun _ _ => rfl, fun _ => rfl, fun _ => rfl, fun _ hi => absurd rfl hi⟩
  | osc i hi => exact ⟨fun _ hn => absurd hi hn, fun _ => rfl, fun _ => rfl, fun _ _ => ⟨rfl, rfl⟩⟩
  | synthStart i hi => exact ⟨fun _ _ => rfl, fun _ => rfl, fun hn => absurd hi hn, fun hn => absurd hi hn⟩
  | synthStep w =>
    have hi := isSynth_synthInstr w
    exact ⟨fun _ _ => rfl, fun _ => rfl, fun hn => absurd hi hn, fun hn => absurd hi hn⟩

/-! ### The engine's stores (R59) -/

theorem synthInstr_ne_synthSh3 (w : Wave) : synthInstr w ≠ .synthSh3 := by
  cases w <;> nofun

/-- Settles O25: only a sample step has an effect on memory, and that is one sample. -/
theorem engineStoresOnlyTheSample : Obligations.EngineStoresOnlyTheSample := by
  intro i s t h
  cases exec_effect h with
  | nop | clear | pcmq | plookup | tquant | osc | synthStart => exact ⟨fun _ _ => rfl, fun _ _ => rfl⟩
  | synthStep w hphase v o st info e =>
    refine ⟨fun a ⟨hlow, hhigh⟩ => readByte_writePcm_other s v hlow hhigh, ?_⟩
    rintro (hsynth | hsh3 | hstart)
    · exact absurd (isSynth_synthInstr w) hsynth
    · exact absurd hsh3 (synthInstr_ne_synthSh3 w)
    · exact absurd (hphase.symm.trans hstart) nofun

end Sys2Proof.Machine
end

section
/-! PROOFS. What one event of R61 writes, said once, and the statements about what no step, or only some step,
changes (spec/10_state.md R26 to R29, R43 to R45, spec/70_reset_and_hazards.md R235). -/

namespace Sys2Proof.Machine

/-! ### The effect of an event from outside -/

/-- What an event from outside may leave (R28, R54, R90, R220, R230). -/
inductive OutsideEffect (s : State) : BusEvent → State → Prop
  | read (a : Word) (log : List Word) (count : Nat) :
      OutsideEffect s (.read 4 a) { s with readLog := log, freeCount := count }
  | unchanged (a data : Word) : OutsideEffect s (.write 4 a data) s
  | ignored (a data : Word) (hbusy : s.status.busy = true) : OutsideEffect s (.write 4 a data) s.ignoreWrite
  | accept (w : Word) (hidle : s.status.busy = false) (hne : w ≠ 0#32) :
      OutsideEffect s (.write 4 0#32 w) (s.accept w)
  | register (a data : Word) (r : Reg) (hidle : s.status.busy = false) (hr : regAt a.toNat = some r) :
      OutsideEffect s (.write 4 a data) (writeReg r data s)
  | nseq (a data : Word) (hidle : s.status.busy = false) :
      OutsideEffect s (.write 4 a data) (s.writeNseqWord a.toNat data)
  | reset : OutsideEffect s .reset s.applyReset

theorem regAt_of_locate_eq_reg {s : State} {a : Nat} {r : Reg} (h : locate s a = .reg r) : regAt a = some r := by
  unfold locate at h
  split at h
  · split at h
    next q hq => rw [hq, Location.reg.inj h]
    next => cases h
  · split at h
    · cases h
    · split at h <;> cases h

/-- The offset of a register in the register window: the first column of R22. -/
def regOffset : Reg → Nat
  | .cmd => 0x000 | .status => 0x004 | .errinfo => 0x008 | .ncount => 0x00C
  | .bpmLo => 0x010 | .bpmHi => 0x014 | .dutyLo => 0x018 | .dutyHi => 0x01C
  | .widthLo => 0x020 | .widthHi => 0x024 | .kidx => 0x028 | .nsamp => 0x02C
  | .durLo => 0x030 | .durHi => 0x034 | .freqLo => 0x038 | .freqHi => 0x03C
  | .sampleLo => 0x040 | .sampleHi => 0x044 | .pcm => 0x048 | .outlen => 0x04C
  | .nseqCap => 0x050 | .pcmCap => 0x054

/-- Each register has one offset, and no other. -/
theorem regAt_eq_some_iff {a : Nat} {r : Reg} : regAt a = some r ↔ a = regOffset r := by
  constructor
  · intro h
    unfold regAt at h
    split at h <;> cases h <;> rfl
  · rintro rfl
    cases r <;> rfl

/-- An event from outside that goes on has the effect of its kind. -/
theorem busEvent_effect {ev : BusEvent} {s t : State} (h : busEvent ev s = .next t) : OutsideEffect s ev t := by
  rcases busEvent_cases ev s with ⟨-, r, hev⟩ | ⟨a, rfl, -, hev⟩ | ⟨a, data, rfl, -, hev⟩ | ⟨rfl, hev⟩ <;>
    rw [hev] at h
  · cases h
  · cases h
    obtain ⟨log, count, hread⟩ := busRead_frame a.toNat s
    rw [hread]
    exact .read a log count
  · rcases busWrite_cases a.toNat data s with ⟨hl, hw⟩ | ⟨-, hw⟩ | ⟨-, -, hbusy, hw⟩ | ⟨r, hl, -, -, hidle, hw⟩ |
      ⟨-, hidle, hw⟩ <;> rw [hw] at h
    · obtain rfl : a = 0#32 := BitVec.eq_of_toNat_eq (regAt_eq_some_iff.1 (regAt_of_locate_eq_reg hl))
      rcases issueCommand_cases data s with ⟨hbusy, hc⟩ | ⟨-, -, hc⟩ | ⟨hidle, hne, hc⟩ <;> rw [hc] at h <;> cases h
      · exact .ignored _ data hbusy
      · exact .unchanged _ data
      · exact .accept data hidle hne
    · cases h; exact .unchanged a data
    · cases h; exact .ignored a data hbusy
    · cases h; exact .register a data r hidle (regAt_of_locate_eq_reg hl)
    · cases h; exact .nseq a data hidle
  · cases h; exact .reset

/-- A word write to `NSEQ` changes memory alone. -/
theorem writeNseqWord_writes (s : State) (a : Nat) (data : Word) :
    s.writeNseqWord a data = { s with mem := (s.writeNseqWord a data).mem } := by
  have hbyte (s : State) (a : Nat) (b : Byte) : s.writeNseqByte a b = { s with mem := (s.writeNseqByte a b).mem } := by
    unfold State.writeNseqByte
    split <;> rfl
  unfold State.writeNseqWord
  rw [hbyte (State.writeNseqByte _ _ _), hbyte (State.writeNseqByte _ _ _), hbyte (State.writeNseqByte _ _ _),
    hbyte s]

@[simp] theorem writeNseqWord_status (s : State) (a : Nat) (data : Word) :
    (s.writeNseqWord a data).status = s.status := by
  rw [writeNseqWord_writes]

/-- A register write changes no flag but `AXV`, which a write to either half of `BPM` clears (R113). -/
theorem writeReg_status (r : Reg) (data : Word) (s : State) :
    (writeReg r data s).status =
      { s.status with axv := if r = .bpmLo ∨ r = .bpmHi then false else s.status.axv } := by
  cases r <;> rfl

theorem writeReg_caps (r : Reg) (data : Word) (s : State) :
    (writeReg r data s).nseqCap = s.nseqCap ∧ (writeReg r data s).pcmCap = s.pcmCap := by
  cases r <;> exact ⟨rfl, rfl⟩

/-! ### The effect of a step -/

/-- What one step may be, with what it leaves. -/
inductive StepEffect (s : State) : State → Prop
  | command (i : Instr) (t : State) (hturn : s.turn = .engine) (hdecode : decode s.eng.cw = .ok i)
      (hexec : exec i s.takeEngineTurn = .next t) (heff : CommandEffect s.takeEngineTurn i t) : StepEffect s t
  | illegal (e : IllegalWord) (hturn : s.turn = .engine) (hdecode : decode s.eng.cw = .error e) :
      StepEffect s (s.takeEngineTurn.raise .illegalCommand 0#32)
  | outside (ev : BusEvent) (t : State) (hturn : s.turn = .outside ev)
      (heff : OutsideEffect s.takeOutsideTurn ev t) : StepEffect s t
  | idle (hturn : s.turn = .idle) : StepEffect s s

theorem step_effect {s t : State} (h : step s = .next t) : StepEffect s t := by
  rcases step_cases s with ⟨i, hturn, hdecode, hs⟩ | ⟨e, hturn, hdecode, hs⟩ | ⟨ev, hturn, hs⟩ | ⟨hturn, hs⟩ <;>
    rw [hs] at h
  · exact .command i t hturn hdecode h (exec_effect h)
  · cases h; exact .illegal e hturn hdecode
  · exact .outside ev t hturn (busEvent_effect h)
  · cases h; exact .idle hturn

theorem busy_of_turn_engine {s : State} (h : s.turn = .engine) : s.status.busy = true := ((turn_eq_engine s).1 h).1

theorem idle_of_turn_idle {s : State} (h : s.turn = .idle) : s.status.busy = false := ((turn_eq_idle s).1 h).1

theorem not_busy_and_idle {b : Bool} (hbusy : b = true) (hidle : b = false) : False :=
  absurd (hbusy.symm.trans hidle) nofun

/-- Settles O26: no effect writes a capacity, and reset takes them over. -/
theorem capacitiesNeverChange : Obligations.CapacitiesNeverChange := by
  intro s t h
  cases step_effect h with
  | command i _ _ _ _ heff => cases heff <;> exact ⟨rfl, rfl⟩
  | illegal | idle => exact ⟨rfl, rfl⟩
  | outside ev _ _ heff =>
    cases heff with
    | register a data r => exact writeReg_caps r data _
    | nseq a data =>
      rw [writeNseqWord_writes]
      exact ⟨rfl, rfl⟩
    | read | unchanged | ignored | accept | reset => exact ⟨rfl, rfl⟩

/-- No command stores below `PCM_BASE` (R59). -/
theorem readByte_of_effect_of_lt {i : Instr} {s t : State} (h : CommandEffect s i t) {a : Nat} (ha : a < pcmBase) :
    t.readByte a = s.readByte a := by
  cases h with
  | synthStep w hphase v =>
    exact readByte_writePcm_other s v (by simp only [pcmAddr]; omega) (by simp only [pcmAddr]; omega)
  | nop | clear | pcmq | plookup | tquant | osc | synthStart => rfl

/-- Settles O27: a command writes none of its inputs but those named, and a busy block ignores the host. -/
theorem inputsHoldStillWhileBusy : Obligations.InputsHoldStillWhileBusy := by
  intro s t hbusy hreset h
  cases step_effect h with
  | command i _ hturn _ hexec heff =>
    obtain ⟨hncount, hbpm, hduty, hwidth, hkidx, -⟩ := commandsKeepTheHostsRegisters i _ _ hexec
    exact ⟨hncount, hbpm, hduty, hwidth, hkidx, fun a ha => readByte_of_effect_of_lt heff ha,
      fun hn => absurd hturn hn⟩
  | illegal _ hturn => exact ⟨rfl, rfl, rfl, rfl, rfl, fun _ _ => rfl, fun hn => absurd hturn hn⟩
  | idle hturn => exact (not_busy_and_idle hbusy (idle_of_turn_idle hturn)).elim
  | outside ev _ hturn heff =>
    cases heff with
    | reset => exact absurd hturn hreset
    | accept w hidle => exact (not_busy_and_idle hbusy hidle).elim
    | register a data r hidle => exact (not_busy_and_idle hbusy hidle).elim
    | nseq a data hidle => exact (not_busy_and_idle hbusy hidle).elim
    | read | unchanged | ignored =>
      exact ⟨rfl, rfl, rfl, rfl, rfl, fun _ _ => rfl, fun _ => ⟨rfl, rfl, rfl, rfl⟩⟩

/-! ### The flags and what changes them -/

/-- Settles O28: of the outside's effects only an acceptance sets `BUSY` and only a reset clears it. -/
theorem busyChangesByAcceptanceAndCompletion : Obligations.BusyChangesByAcceptanceAndCompletion := by
  refine ⟨fun s w hidle hne => ⟨_, busEvent_write_cmd_of_idle hidle hne, rfl⟩, fun s t h hidle hbusy => ?rises,
    fun s t h hbusy hidle => ?falls⟩
  case rises =>
    cases step_effect h with
    | command _ _ hturn => exact (not_busy_and_idle (busy_of_turn_engine hturn) hidle).elim
    | illegal _ hturn => exact (not_busy_and_idle (busy_of_turn_engine hturn) hidle).elim
    | idle => exact (not_busy_and_idle hbusy hidle).elim
    | outside ev _ hturn heff =>
      cases heff with
      | accept w _ hne => exact ⟨w, ((turn_eq_outside s _).1 hturn).1, hne, rfl⟩
      | register a data r => rw [writeReg_status] at hbusy; exact (not_busy_and_idle hbusy hidle).elim
      | nseq a data => rw [writeNseqWord_status] at hbusy; exact (not_busy_and_idle hbusy hidle).elim
      | reset => exact absurd hbusy nofun
      | read | unchanged | ignored => exact (not_busy_and_idle hbusy hidle).elim
  case falls =>
    cases step_effect h with
    | command _ _ hturn => exact .inl hturn
    | illegal _ hturn => exact .inl hturn
    | idle => exact (not_busy_and_idle hbusy hidle).elim
    | outside ev _ hturn heff =>
      cases heff with
      | reset => exact .inr hturn
      | accept w => exact absurd hidle nofun
      | register a data r hfree => exact (not_busy_and_idle hbusy hfree).elim
      | nseq a data hfree => exact (not_busy_and_idle hbusy hfree).elim
      | read | unchanged | ignored => exact (not_busy_and_idle hbusy hidle).elim

/-- Only CLEAR clears `WBUSY`, of the commands. -/
theorem eq_clear_of_wbusy_cleared {i : Instr} {s t : State} (h : CommandEffect s i t) (hset : s.status.wbusy = true)
    (hclear : t.status.wbusy = false) : i = .clear := by
  cases h with
  | clear => rfl
  | nop wbusy hkeep => exact (not_busy_and_idle (hkeep hset) hclear).elim
  | synthStart _ _ _ _ _ _ _ _ hwbusy => exact (not_busy_and_idle (hwbusy.trans hset) hclear).elim
  | synthStep _ _ _ _ _ _ _ _ hwbusy => exact (not_busy_and_idle (hwbusy.trans hset) hclear).elim
  | pcmq | plookup | tquant | osc => exact (not_busy_and_idle hset hclear).elim

/-- Settles O29: of all effects only CLEAR's and reset's clear `WBUSY`. -/
theorem wbusyIsSticky : Obligations.WbusyIsSticky := by
  intro s t h hset hclear
  cases step_effect h with
  | command i _ hturn hdecode _ heff =>
    obtain rfl := eq_clear_of_wbusy_cleared heff hset hclear
    exact .inl ⟨hturn, hdecode⟩
  | illegal | idle => exact (not_busy_and_idle hset hclear).elim
  | outside ev _ hturn heff =>
    cases heff with
    | reset => exact .inr hturn
    | register a data r => rw [writeReg_status] at hclear; exact (not_busy_and_idle hset hclear).elim
    | nseq a data => rw [writeNseqWord_status] at hclear; exact (not_busy_and_idle hset hclear).elim
    | ignored => exact absurd hclear nofun
    | read | unchanged | accept => exact (not_busy_and_idle hset hclear).elim

/-- Only TQUANT and SYNTH write `AXV`, of the commands. -/
theorem eq_tquant_or_isSynth_of_axv_changed {i : Instr} {s t : State} (h : CommandEffect s i t)
    (hchanged : s.status.axv ≠ t.status.axv) : i = .tquant ∨ isSynth i := by
  cases h with
  | tquant => exact .inl rfl
  | synthStart _ hi => exact .inr hi
  | synthStep w => exact .inr (isSynth_synthInstr w)
  | clear _ _ haxv => exact absurd haxv.symm hchanged
  | nop | pcmq | plookup | osc => exact absurd rfl hchanged

/-- The two halves of `BPM` stand at offsets 0x10 and 0x14 (R22). -/
theorem addr_of_regAt_bpm {a : Word} {r : Reg} (hr : regAt a.toNat = some r) (hbpm : r = .bpmLo ∨ r = .bpmHi) :
    a = 0x10#32 ∨ a = 0x14#32 := by
  have hoffset := regAt_eq_some_iff.1 hr
  rcases hbpm with rfl | rfl
  · exact .inl (BitVec.eq_of_toNat_eq hoffset)
  · exact .inr (BitVec.eq_of_toNat_eq hoffset)

/-- Settles O30: of the outside's effects only a write to `BPM` and a reset write `AXV`, and both clear it. -/
theorem axvHasItsOwnWriters : Obligations.AxvHasItsOwnWriters := by
  intro s t h hchanged
  cases step_effect h with
  | command i _ hturn hdecode _ heff =>
    exact .inl ⟨hturn, i, hdecode, eq_tquant_or_isSynth_of_axv_changed heff hchanged⟩
  | illegal | idle => exact absurd rfl hchanged
  | outside ev _ hturn heff =>
    cases heff with
    | reset => exact .inr ⟨rfl, .inr (.inr hturn)⟩
    | register a data r _ hr =>
      rw [writeReg_status] at hchanged ⊢
      by_cases hbpm : r = .bpmLo ∨ r = .bpmHi
      · rcases addr_of_regAt_bpm hr hbpm with rfl | rfl
        · exact .inr ⟨if_pos hbpm, .inl ⟨data, hturn⟩⟩
        · exact .inr ⟨if_pos hbpm, .inr (.inl ⟨data, hturn⟩)⟩
      · exact absurd (if_neg hbpm).symm hchanged
    | nseq a data =>
      rw [writeNseqWord_status] at hchanged
      exact absurd rfl hchanged
    | read | unchanged | ignored | accept => exact absurd rfl hchanged

end Sys2Proof.Machine
end

section
/-! PROOFS. The invariant (spec/10_state.md, spec/20_memory.md R59, spec/45_sequencer.md R160, R161): it holds at
reset, and every event of R61 keeps it. -/

namespace Sys2Proof.Machine

/-! ### Reserved bits -/

theorem and_shiftLeft_eq_zero {a n : Nat} (k : Nat) (h : a < 2 ^ n) : a &&& k <<< n = 0 := by
  apply Nat.eq_of_testBit_eq
  intro i
  rw [Nat.testBit_and, Nat.testBit_shiftLeft, Nat.zero_testBit]
  by_cases hi : i < n
  · simp [hi]
  · rw [Nat.testBit_lt_two_pow (lt_of_lt_of_le h (Nat.pow_le_pow_right two_pos (Nat.not_lt.1 hi))), Bool.false_and]

/-- The code in [23:16] and an index in [12:0] leave the reserved bits of `ERRINFO` 0 (R31). -/
theorem noteInfo_reserved (c : Nat) {j : Nat} (hj : j < 2 ^ 13) : noteInfo c j &&& 0xFF00E000#32 = 0x00000000#32 := by
  have hcode : ∀ k < 256, (BitVec.ofNat 32 k <<< 16) &&& 0xFF00E000#32 = 0#32 := by decide +kernel
  have hindex : BitVec.ofNat 32 j &&& 0xFF00E000#32 = 0#32 := by
    apply BitVec.eq_of_toNat_eq
    rw [BitVec.toNat_and, BitVec.toNat_ofNat, Nat.mod_eq_of_lt (by omega)]
    exact and_shiftLeft_eq_zero 0x7F807 hj
  rw [noteInfo, BitVec.and_comm, BitVec.and_or_distrib_left, BitVec.and_comm, hcode _ (Nat.mod_lt _ (by norm_num)),
    BitVec.and_comm, hindex, BitVec.or_zero]

/-- A 16-bit pattern, zero-extended (R151). -/
theorem setWidth_eq_zero_append (x : BitVec 16) : x.setWidth 32 = 0#16 ++ x := by
  apply BitVec.eq_of_toNat_eq
  have hx := x.isLt
  rw [toNat_append_eq_add, BitVec.toNat_setWidth, BitVec.toNat_ofNat]
  omega

theorem setWidth_reserved (x : BitVec 16) : x.setWidth 32 &&& 0xFFFF0000#32 = 0x00000000#32 := by
  apply BitVec.eq_of_toNat_eq
  have hx := x.isLt
  rw [BitVec.toNat_and, BitVec.toNat_setWidth, Nat.mod_eq_of_lt (by omega)]
  exact and_shiftLeft_eq_zero 0xFFFF hx

/-! ### Frames: what the invariant does not look at -/

/-- The model's record of the outside world is no part of the invariant (log 5). -/
theorem Generating.of_record {s : State} (h : Generating s) (pending : List BusEvent) (gaps : List Nat)
    (log : List Word) (count : Nat) (st : Status) (haxv : st.axv = s.status.axv) :
    Generating { s with pending := pending, gaps := gaps, readLog := log, freeCount := count, status := st } where
  shape := by
    obtain ⟨w, hdecode, hok⟩ := h.shape
    exact ⟨w, hdecode, by cases w <;> exact hok⟩
  notes_fit := h.notes_fit
  notes_valid := h.notes_valid
  axis_held := ⟨haxv.trans h.axis_held.1, h.axis_held.2⟩
  np_bound := h.np_bound
  kp_bound := h.kp_bound
  output_fits := h.output_fits

theorem Inv.of_record {s : State} (h : Inv s) (pending : List BusEvent) (gaps : List Nat) (log : List Word)
    (count : Nat) (wbusy : Bool) :
    Inv { s with
      pending := pending, gaps := gaps, readLog := log, freeCount := count
      status := { s.status with wbusy := wbusy } } where
  memory_wf := h.memory_wf
  memory_mapped := h.memory_mapped
  nseq_range := h.nseq_range
  pcm_range := h.pcm_range
  errinfo_reserved := h.errinfo_reserved
  pcm_reserved := h.pcm_reserved
  ecode_named := h.ecode_named
  busy_clean := h.busy_clean
  axis_fresh := h.axis_fresh
  outlen_fits := h.outlen_fits
  generating := fun hbusy hphase => (h.generating hbusy hphase).of_record pending gaps log count _ rfl

theorem Inv.takeEngineTurn {s : State} (h : Inv s) : Inv s.takeEngineTurn :=
  h.of_record s.pending s.gaps.tail s.readLog s.freeCount s.status.wbusy

theorem Inv.takeOutsideTurn {s : State} (h : Inv s) : Inv s.takeOutsideTurn :=
  h.of_record _ _ s.readLog s.freeCount s.status.wbusy

theorem Inv.ignoreWrite {s : State} (h : Inv s) : Inv s.ignoreWrite :=
  h.of_record s.pending s.gaps s.readLog s.freeCount true

/-- An idle state that keeps memory and the depths is good when its registers are. -/
theorem Inv.of_idle {s t : State} (h : Inv s) (hmem : t.mem = s.mem) (hnseq : t.nseqCap = s.nseqCap)
    (hpcm : t.pcmCap = s.pcmCap) (hidle : t.status.busy = false)
    (herrinfo : t.errinfo &&& 0xFF00E000#32 = 0x00000000#32) (hreserved : t.pcm &&& 0xFFFF0000#32 = 0x00000000#32)
    (hecode : t.status.ecode.toNat ≤ 8)
    (haxis : t.status.axv = true → axis t.bpm = some (t.dur, t.nsamp.toNat))
    (houtlen : t.outlen.toNat ≤ t.pcmDepth) : Inv t where
  memory_wf := hmem ▸ h.memory_wf
  memory_mapped := fun c hc => by
    have hm := h.memory_mapped c (hmem ▸ hc)
    rw [inNseq_iff, inPcm_iff] at hm ⊢
    rwa [hnseq, hpcm]
  nseq_range := by
    unfold State.nseqDepth
    rw [hnseq]
    exact h.nseq_range
  pcm_range := by
    unfold State.pcmDepth
    rw [hpcm]
    exact h.pcm_range
  errinfo_reserved := herrinfo
  pcm_reserved := hreserved
  ecode_named := hecode
  busy_clean := fun hbusy => (not_busy_and_idle hbusy hidle).elim
  axis_fresh := haxis
  outlen_fits := houtlen
  generating := fun hbusy => (not_busy_and_idle hbusy hidle).elim

/-! ### Reset -/

theorem inv_reset : Inv State.reset where
  memory_wf := wf_reset
  memory_mapped := fun _ hc => nomatch hc
  nseq_range := by
    have hlt : Config.nseqDepthSeed % 4096 < 4096 := Nat.mod_lt _ (by norm_num)
    simp only [State.nseqDepth, State.reset, nseqDepth, BitVec.toNat_ofNat]
    omega
  pcm_range := by
    have hlt : Config.pcmDepthSeed % 8388608 < 8388608 := Nat.mod_lt _ (by norm_num)
    simp only [State.pcmDepth, State.reset, pcmDepth, BitVec.toNat_ofNat]
    omega
  errinfo_reserved := rfl
  pcm_reserved := rfl
  ecode_named := by decide
  busy_clean := nofun
  axis_fresh := nofun
  outlen_fits := Nat.zero_le _
  generating := nofun

/-- Settles O44: nothing is busy, `AXV` is 0 and memory lists nothing; the depths are in their ranges (R6). -/
theorem invariantHoldsAtReset : Obligations.InvariantHoldsAtReset := inv_reset

theorem Inv.applyReset {s : State} (h : Inv s) : Inv s.applyReset where
  memory_wf := wf_reset
  memory_mapped := fun _ hc => nomatch hc
  nseq_range := h.nseq_range
  pcm_range := h.pcm_range
  errinfo_reserved := BitVec.zero_and
  pcm_reserved := BitVec.zero_and
  ecode_named := by simp [State.applyReset, State.reset]
  busy_clean := nofun
  axis_fresh := nofun
  outlen_fits := Nat.zero_le _
  generating := nofun

/-! ### Events from outside -/

theorem Inv.accept {s : State} (h : Inv s) {w : Word} (hne : w ≠ 0#32) : Inv (s.accept w) where
  memory_wf := h.memory_wf
  memory_mapped := h.memory_mapped
  nseq_range := h.nseq_range
  pcm_range := h.pcm_range
  errinfo_reserved := h.errinfo_reserved
  pcm_reserved := h.pcm_reserved
  ecode_named := by simp
  busy_clean := fun _ => ⟨rfl, rfl, hne⟩
  axis_fresh := h.axis_fresh
  outlen_fits := h.outlen_fits
  generating := nofun

/-- No register that the host writes is in the invariant but `BPM`, and a write there clears `AXV` (R113). -/
theorem Inv.writeReg {s : State} (h : Inv s) (hidle : s.status.busy = false) (r : Reg) (data : Word) :
    Inv (writeReg r data s) := by
  obtain ⟨hnseq, hpcm⟩ := writeReg_caps r data s
  have hstatus := writeReg_status r data s
  refine h.of_idle ?mem hnseq hpcm (by rw [hstatus]; exact hidle) ?errinfo ?pcm (by rw [hstatus]; exact h.ecode_named)
    ?axis ?outlen
  case mem => cases r <;> rfl
  case errinfo => cases r <;> exact h.errinfo_reserved
  case pcm => cases r <;> exact h.pcm_reserved
  case outlen => cases r <;> exact h.outlen_fits
  case axis =>
    cases r with
    | bpmLo | bpmHi => exact fun haxv => absurd haxv Bool.false_ne_true
    | _ => exact h.axis_fresh

/-- A byte of a memory's window may be written. -/
theorem mapped_writeByte {s : State} (h : ∀ c ∈ s.mem, s.inNseq c.1 = true ∨ s.inPcm c.1 = true) {a : Nat} (b : Byte)
    (ha : s.inNseq a = true ∨ s.inPcm a = true) :
    ∀ c ∈ (s.writeByte a b).mem, s.inNseq c.1 = true ∨ s.inPcm c.1 = true := by
  intro c hc
  rcases Memory.mem_store hc with rfl | hc
  · exact ha
  · exact h c hc

theorem Inv.writeByte {s : State} (h : Inv s) (hidle : s.status.busy = false) {a : Nat} (b : Byte)
    (ha : s.inNseq a = true ∨ s.inPcm a = true) (hpos : 0 < a) : Inv (s.writeByte a b) where
  memory_wf := wf_writeByte s b hpos h.memory_wf
  memory_mapped := mapped_writeByte h.memory_mapped b ha
  nseq_range := h.nseq_range
  pcm_range := h.pcm_range
  errinfo_reserved := h.errinfo_reserved
  pcm_reserved := h.pcm_reserved
  ecode_named := h.ecode_named
  busy_clean := h.busy_clean
  axis_fresh := h.axis_fresh
  outlen_fits := h.outlen_fits
  generating := fun hbusy => (not_busy_and_idle hbusy hidle).elim

theorem writeNseqByte_status (s : State) (a : Nat) (b : Byte) : (s.writeNseqByte a b).status = s.status := by
  unfold State.writeNseqByte
  split <;> rfl

theorem Inv.writeNseqByte {s : State} (h : Inv s) (hidle : s.status.busy = false) (a : Nat) (b : Byte) :
    Inv (s.writeNseqByte a b) := by
  unfold State.writeNseqByte
  split
  next hin => exact h.writeByte hidle b (.inl hin) (by have := ((inNseq_iff s a).1 hin).1; omega)
  next => exact h

theorem Inv.writeNseqWord {s : State} (h : Inv s) (hidle : s.status.busy = false) (a : Nat) (data : Word) :
    Inv (s.writeNseqWord a data) := by
  unfold State.writeNseqWord
  refine (((h.writeNseqByte hidle _ _).writeNseqByte ?_ _ _).writeNseqByte ?_ _ _).writeNseqByte ?_ _ _
  all_goals
    simp only [writeNseqByte_status]
    exact hidle

/-- Every event from outside keeps the invariant. -/
theorem Inv.outside {s t : State} {ev : BusEvent} (h : Inv s) (heff : OutsideEffect s ev t) : Inv t := by
  cases heff with
  | read a log count => exact h.of_record s.pending s.gaps log count s.status.wbusy
  | unchanged => exact h
  | ignored => exact h.ignoreWrite
  | accept w _ hne => exact h.accept hne
  | register a data r hidle => exact h.writeReg hidle r data
  | nseq a data hidle => exact h.writeNseqWord hidle a.toNat data
  | reset => exact h.applyReset

/-! ### Completions -/

/-- A completion that keeps the axis and `OUTLEN`. -/
theorem Inv.completed {s : State} (h : Inv s) (p : Word) (f x : F64) (info : Word) (done wbusy : Bool)
    (code : BitVec 4) (hp : p &&& 0xFFFF0000#32 = 0#32) (hinfo : info &&& 0xFF00E000#32 = 0#32)
    (hcode : code.toNat ≤ 8) :
    Inv { s with
      pcm := p, freq := f, sample := x, errinfo := info
      status := { busy := false, done := done, wbusy := wbusy, axv := s.status.axv, ecode := code } } :=
  h.of_idle rfl rfl rfl rfl hinfo hp hcode h.axis_fresh h.outlen_fits

/-- A completion that writes the axis and `OUTLEN`. -/
theorem Inv.completed_axis {s : State} (h : Inv s) (d : F64) (n o : Word) (e : Engine) (info : Word) (axv : Bool)
    (code : BitVec 4) (haxis : axv = true → axis s.bpm = some (d, n.toNat)) (ho : o.toNat ≤ s.pcmDepth)
    (hinfo : info &&& 0xFF00E000#32 = 0#32) (hcode : code.toNat ≤ 8) :
    Inv { s with
      dur := d, nsamp := n, outlen := o, eng := e, errinfo := info
      status := { doneWith s.status code with axv := axv } } :=
  h.of_idle rfl rfl rfl rfl hinfo h.pcm_reserved hcode haxis ho

theorem Inv.oscCommand {s : State} (h : Inv s) (sh : Option Wave) (c : Nat) : Inv (oscCommand sh c s) := by
  have hraise (code : BitVec 4) (hcode : code.toNat ≤ 8) := h.completed s.pcm s.freq s.sample 0#32 true
    s.status.wbusy code h.pcm_reserved BitVec.zero_and hcode
  rcases oscCommand_cases sh c s with ⟨-, heq⟩ | ⟨-, -, heq⟩ | ⟨-, -, -, heq⟩ | ⟨-, -, -, -, heq⟩ |
    ⟨w, -, -, -, -, -, heq⟩ | ⟨w, f, -, -, -, -, -, -, heq⟩ <;> rw [heq]
  · exact h.completed s.pcm s.freq s.sample _ true s.status.wbusy 1#4 h.pcm_reserved
      (noteInfo_reserved c (by norm_num)) (by decide)
  · exact hraise 7#4 (by decide)
  · exact hraise 8#4 (by decide)
  · exact hraise 3#4 (by decide)
  · exact hraise 4#4 (by decide)
  · exact h.completed s.pcm f _ 0#32 true s.status.wbusy 0#4 h.pcm_reserved BitVec.zero_and (by decide)

/-! ### The first step of a SYNTH (R160) -/

theorem ofNat_toNat_of_axis {b d : F64} {n : Nat} (h : axis b = some (d, n)) : (BitVec.ofNat 32 n).toNat = n := by
  obtain ⟨-, -, -, -, -, -, hn⟩ := axis_some h
  rw [BitVec.toNat_ofNat]
  omega

/-- The checks of the first step are what the sample steps rely on. -/
theorem Inv.beginSamples {s : State} (h : Inv s) {w : Wave} {d : F64} {n : Nat}
    (hdecode : decode s.eng.cw = .ok (synthInstr w))
    (hcount : s.ncount.toNat ≤ s.nseqDepth) (hnotes : ∀ j, j < s.ncount.toNat → s.noteCode j ≤ 12)
    (haxis : axis s.bpm = some (d, n)) (hshape : shapeParamOk w s = true)
    (hfits : s.ncount.toNat * n ≤ s.pcmDepth) (hpos : 0 < s.ncount.toNat) :
    Inv ((({ s with outlen := 0#32 } : State).setAxis d n).beginSamples n) where
  memory_wf := h.memory_wf
  memory_mapped := h.memory_mapped
  nseq_range := h.nseq_range
  pcm_range := h.pcm_range
  errinfo_reserved := h.errinfo_reserved
  pcm_reserved := h.pcm_reserved
  ecode_named := h.ecode_named
  busy_clean := h.busy_clean
  axis_fresh := fun _ => by
    simpa [ofNat_toNat_of_axis haxis] using haxis
  outlen_fits := Nat.zero_le _
  generating := fun _ _ =>
    { shape := ⟨w, hdecode, by cases w <;> exact hshape⟩
      notes_fit := hcount
      notes_valid := hnotes
      axis_held := ⟨rfl, ofNat_toNat_of_axis haxis⟩
      np_bound := hpos
      kp_bound := by
        obtain ⟨-, -, -, -, -, hn, -⟩ := axis_some haxis
        exact hn
      output_fits := hfits }

theorem Inv.synthStart {s : State} (h : Inv s) {sh : Option Wave}
    (hdecode : ∀ w, sh = some w → decode s.eng.cw = .ok (synthInstr w)) : Inv (synthStart sh s) := by
  have herror (code : BitVec 4) (hcode : code.toNat ≤ 8) := h.completed_axis s.dur s.nsamp 0#32 s.eng 0#32
    s.status.axv code h.axis_fresh (Nat.zero_le _) BitVec.zero_and hcode
  have hdone {d : F64} {n : Nat} (haxis : axis s.bpm = some (d, n)) (o : Word) (ho : o.toNat ≤ s.pcmDepth) (e : Engine)
      (code : BitVec 4) (hcode : code.toNat ≤ 8) := h.completed_axis d (BitVec.ofNat 32 n) o e 0#32 true code
    (fun _ => by rw [ofNat_toNat_of_axis haxis, haxis]) ho BitVec.zero_and hcode
  rcases synthStart_cases sh s with ⟨-, heq⟩ | ⟨j, hcount, hbad, heq⟩ | ⟨-, -, -, heq⟩ | ⟨d, n, hcount, hgood, haxis, hcases⟩
  · exact heq ▸ herror 6#4 (by decide)
  · obtain ⟨hj, -, -⟩ := firstBadNote_eq_some hbad
    have hrange := h.nseq_range.2
    rw [heq]
    exact h.completed_axis s.dur s.nsamp 0#32 s.eng _ s.status.axv 1#4 h.axis_fresh (Nat.zero_le _)
      (noteInfo_reserved _ (by omega)) (by decide)
  · rw [heq]
    exact h.completed_axis s.dur s.nsamp 0#32 s.eng 0#32 false 2#4 nofun (Nat.zero_le _) BitVec.zero_and (by decide)
  · rcases hcases with ⟨-, heq⟩ | ⟨w, -, -, heq⟩ | ⟨w, -, -, -, heq⟩ | ⟨w, -, -, -, hzero, heq⟩ |
      ⟨w, hw, hshape, hfits, hpos, heq⟩ <;> rw [heq]
    · exact hdone haxis 0#32 (Nat.zero_le _) s.eng 3#4 (by decide)
    · exact hdone haxis 0#32 (Nat.zero_le _) s.eng 4#4 (by decide)
    · exact hdone haxis 0#32 (Nat.zero_le _) s.eng 6#4 (by decide)
    · exact hdone haxis _ (by simp [hzero]) _ 0#4 (by decide)
    · exact h.beginSamples (hdecode w hw) hcount ((firstBadNote_eq_none s _).1 hgood) haxis hshape hfits hpos

/-! ### A sample step of a SYNTH (R161) -/

/-- The index of the sample that a sample step writes lies in the output. -/
theorem Generating.sample_lt {s : State} (h : Generating s) :
    s.eng.np * s.eng.n + s.eng.kp < s.ncount.toNat * s.eng.n := by
  have hkp := h.kp_bound
  calc s.eng.np * s.eng.n + s.eng.kp < s.eng.np * s.eng.n + s.eng.n := by omega
    _ = (s.eng.np + 1) * s.eng.n := (Nat.succ_mul _ _).symm
    _ ≤ s.ncount.toNat * s.eng.n := Nat.mul_le_mul_right _ h.np_bound

theorem Generating.writePcm {s : State} (h : Generating s) (hrange : s.nseqDepth ≤ 4096) (n : Nat) (v : BitVec 16) :
    Generating (s.writePcm n v) where
  shape := by
    obtain ⟨w, hdecode, hok⟩ := h.shape
    exact ⟨w, hdecode, by cases w <;> exact hok⟩
  notes_fit := h.notes_fit
  notes_valid := fun j hj => by
    have hfit := h.notes_fit
    have hlt : j < s.ncount.toNat := hj
    rw [noteCode_writePcm s v (by omega)]
    exact h.notes_valid j hj
  axis_held := h.axis_held
  np_bound := h.np_bound
  kp_bound := h.kp_bound
  output_fits := h.output_fits

/-- A sample inside `PCMBUF` may be written. -/
theorem Inv.writePcm {s : State} (h : Inv s) {n : Nat} (hn : n < s.pcmDepth) (v : BitVec 16) :
    Inv (s.writePcm n v) where
  memory_wf := wf_writePcm s n v h.memory_wf
  memory_mapped := by
    have hpcm : n < s.pcmCap.toNat := hn
    have hlow : s.inPcm (pcmAddr n) = true := (inPcm_iff s _).2 (by simp only [pcmAddr, pcmBase]; omega)
    have hhigh : s.inPcm (pcmAddr n + 1) = true := (inPcm_iff s _).2 (by simp only [pcmAddr, pcmBase]; omega)
    exact mapped_writeByte (mapped_writeByte h.memory_mapped _ (.inr hlow)) _ (.inr hhigh)
  nseq_range := h.nseq_range
  pcm_range := h.pcm_range
  errinfo_reserved := h.errinfo_reserved
  pcm_reserved := h.pcm_reserved
  ecode_named := h.ecode_named
  busy_clean := h.busy_clean
  axis_fresh := h.axis_fresh
  outlen_fits := h.outlen_fits
  generating := fun hbusy hphase => (h.generating hbusy hphase).writePcm h.nseq_range.2 n v

theorem Inv.with_pointers {s : State} (h : Inv s) (hg : Generating s) {np kp : Nat} (hnp : np < s.ncount.toNat)
    (hkp : kp < s.eng.n) : Inv { s with eng := { s.eng with np := np, kp := kp } } where
  memory_wf := h.memory_wf
  memory_mapped := h.memory_mapped
  nseq_range := h.nseq_range
  pcm_range := h.pcm_range
  errinfo_reserved := h.errinfo_reserved
  pcm_reserved := h.pcm_reserved
  ecode_named := h.ecode_named
  busy_clean := h.busy_clean
  axis_fresh := h.axis_fresh
  outlen_fits := h.outlen_fits
  generating := fun _ _ =>
    { shape := by
        obtain ⟨w, hdecode, hok⟩ := hg.shape
        exact ⟨w, hdecode, by cases w <;> exact hok⟩
      notes_fit := hg.notes_fit
      notes_valid := hg.notes_valid
      axis_held := hg.axis_held
      np_bound := hnp
      kp_bound := hkp
      output_fits := hg.output_fits }

theorem Inv.advanceSample {s : State} (h : Inv s) (hg : Generating s) : Inv s.advanceSample := by
  have hnp := hg.np_bound
  rcases advanceSample_cases s with ⟨hkp, heq⟩ | ⟨-, hmore, heq⟩ | ⟨-, -, heq⟩ <;> rw [heq]
  · exact h.with_pointers hg hnp hkp
  · exact h.with_pointers hg (by omega) (Nat.zero_lt_of_lt hg.kp_bound)
  · have hfits := hg.output_fits
    refine h.completed_axis s.dur s.nsamp _ _ 0#32 s.status.axv 0#4 h.axis_fresh ?_ BitVec.zero_and (by decide)
    rw [BitVec.toNat_ofNat]
    exact (Nat.mod_le _ _).trans hfits

/-! ### Every step -/

/-- Every command that is in flight keeps the invariant. -/
theorem Inv.exec {s t : State} {i : Instr} (h : Inv s) (hbusy : s.status.busy = true)
    (hdecode : decode s.eng.cw = .ok i) (hexec : exec i s = .next t) : Inv t := by
  rcases exec_cases hexec with ⟨-, -, rfl⟩ | ⟨-, -, rfl⟩ | ⟨-, rfl⟩ | ⟨-, rfl⟩ | ⟨c, f, -, -, rfl⟩ | ⟨c, -, -, rfl⟩ |
    ⟨-, -, rfl⟩ | ⟨d, n, -, haxis, rfl⟩ | ⟨w, c, -, rfl⟩ | ⟨c, -, rfl⟩ | ⟨w, rfl, -, rfl⟩ | ⟨-, rfl⟩ |
    ⟨w, -, hphase, hstep⟩
  · exact h
  · exact h.ignoreWrite
  · exact h.completed s.pcm s.freq s.sample 0#32 false false 0#4 h.pcm_reserved BitVec.zero_and (by decide)
  · exact h.completed _ s.freq s.sample 0#32 true s.status.wbusy 0#4 (setWidth_reserved _) BitVec.zero_and (by decide)
  · exact h.completed s.pcm f s.sample 0#32 true s.status.wbusy 0#4 h.pcm_reserved BitVec.zero_and (by decide)
  · exact h.completed s.pcm s.freq s.sample _ true s.status.wbusy 1#4 h.pcm_reserved
      (noteInfo_reserved c (by norm_num)) (by decide)
  · exact h.completed_axis s.dur s.nsamp s.outlen s.eng 0#32 false 2#4 nofun h.outlen_fits BitVec.zero_and (by decide)
  · exact h.completed_axis d (BitVec.ofNat 32 n) s.outlen s.eng 0#32 true 0#4
      (fun _ => by rw [ofNat_toNat_of_axis haxis, haxis]) h.outlen_fits BitVec.zero_and (by decide)
  · exact h.oscCommand (some w) c
  · exact h.oscCommand none c
  · exact h.synthStart fun v hv => Option.some.inj hv ▸ hdecode
  · exact h.synthStart nofun
  · have hg := h.generating hbusy hphase
    obtain ⟨f, -, -, hidx, rfl⟩ := synthStep_next hstep
    exact (h.writePcm hidx _).advanceSample (hg.writePcm h.nseq_range.2 _ _)

/-- Settles O45: event by event. -/
theorem stepKeepsTheInvariant : Obligations.StepKeepsTheInvariant := by
  intro s t h hstep
  cases step_effect hstep with
  | command i _ hturn hdecode hexec => exact h.takeEngineTurn.exec (busy_of_turn_engine (s := s) hturn) hdecode hexec
  | illegal =>
    exact h.takeEngineTurn.completed s.pcm s.freq s.sample 0#32 true s.status.wbusy 5#4 h.pcm_reserved
      BitVec.zero_and (by decide)
  | outside ev _ _ heff => exact h.takeOutsideTurn.outside heff
  | idle => exact h

end Sys2Proof.Machine
end

section
/-! PROOFS. No fault, no refusal, and completion (spec/20_memory.md R52, R59, R63, spec/45_sequencer.md R160,
spec/70_reset_and_hazards.md R241): every step from a good state goes on, and every engine step leaves fewer. -/

namespace Sys2Proof.Machine

/-! ### Every step from a good state goes on (R59) -/

/-- Between the sample steps the note and the sample exist. -/
theorem synthStep_next_of_generating {s : State} (h : Generating s) (w : Wave) : ∃ t, synthStep w s = .next t := by
  obtain ⟨f, hf⟩ := frequencyOf_isSome (h.notes_valid _ h.np_bound)
  exact ⟨_, synthStep_of_lt (h.np_bound.trans_le h.notes_fit) hf (h.sample_lt.trans_le h.output_fits)⟩

theorem synthCommand_next_of_inv {s : State} (h : Inv s) (hbusy : s.status.busy = true) (w : Wave) :
    ∃ t, synthCommand w s = .next t := by
  unfold synthCommand
  split
  next => exact ⟨_, rfl⟩
  next hphase => exact synthStep_next_of_generating (h.generating hbusy hphase) w

theorem exec_tquant_of_none {s : State} (h : axis s.bpm = none) : exec .tquant s = .next s.raiseTempo := by
  simp only [exec, execTquant, h]

theorem exec_tquant_of_some {s : State} {d : F64} {n : Nat} (h : axis s.bpm = some (d, n)) :
    exec .tquant s = .next (s.setAxis d n).complete := by
  simp only [exec, execTquant, h]

theorem exec_next_of_inv {s : State} (h : Inv s) (hbusy : s.status.busy = true) (i : Instr) :
    ∃ t, exec i s = .next t := by
  cases i with
  | nop => exact ⟨_, exec_nop_of_busy hbusy⟩
  | plookup c => cases hf : frequencyOf c with
    | none => exact ⟨_, exec_plookup_of_none s hf⟩
    | some f => exact ⟨_, exec_plookup_of_some s hf⟩
  | tquant => cases haxis : axis s.bpm with
    | none => exact ⟨_, exec_tquant_of_none haxis⟩
    | some p => exact ⟨_, exec_tquant_of_some haxis⟩
  | synthSin => exact synthCommand_next_of_inv h hbusy .sine
  | synthPul => exact synthCommand_next_of_inv h hbusy .pulse
  | synthSaw => exact synthCommand_next_of_inv h hbusy .saw
  | oscSin | oscPul | oscSaw | oscSh3 | pcmq | synthSh3 | clear => exact ⟨_, rfl⟩

/-- An event in the contract goes on, and one outside it is refused: none faults. -/
theorem busEvent_next_or_refused (ev : BusEvent) (s : State) :
    (∃ t, busEvent ev s = .next t) ∨ (ev.inContract = false ∧ ∃ r, busEvent ev s = .refused r) := by
  rcases busEvent_cases ev s with href | ⟨a, -, -, h⟩ | ⟨a, data, -, -, h⟩ | ⟨-, h⟩
  · exact .inr href
  · exact .inl ⟨_, h⟩
  · obtain ⟨t, ht⟩ := busWrite_next a.toNat data s
    exact .inl ⟨t, h.trans ht⟩
  · exact .inl ⟨_, h⟩

/-- A step from a good state goes on unless an event outside the contract is next. -/
theorem Inv.step_next_or_refused {s : State} (h : Inv s) :
    (∃ t, step s = .next t) ∨
      ∃ ev r, s.turn = .outside ev ∧ ev.inContract = false ∧ step s = .refused r := by
  rcases step_cases s with ⟨i, hturn, -, hs⟩ | ⟨e, -, -, hs⟩ | ⟨ev, hturn, hs⟩ | ⟨-, hs⟩
  · obtain ⟨t, ht⟩ := exec_next_of_inv h.takeEngineTurn (busy_of_turn_engine (s := s) hturn) i
    exact .inl ⟨t, hs.trans ht⟩
  · exact .inl ⟨_, hs⟩
  · rcases busEvent_next_or_refused ev s.takeOutsideTurn with ⟨t, ht⟩ | ⟨hcontract, r, hr⟩
    · exact .inl ⟨t, hs.trans ht⟩
    · exact .inr ⟨ev, r, hturn, hcontract, hs.trans hr⟩
  · exact .inl ⟨_, hs⟩

/-! ### No error after the first step (R160) -/

theorem exec_synthInstr (w : Wave) (s : State) : exec (synthInstr w) s = synthCommand w s := by
  cases w <;> rfl

theorem synthCommand_of_generate {w : Wave} {s : State} (h : s.eng.phase = .generate) :
    synthCommand w s = synthStep w s := by
  simp only [synthCommand, h]

theorem synthCommand_of_start {w : Wave} {s : State} (h : s.eng.phase = .start) :
    synthCommand w s = .next (synthStart (some w) s) := by
  simp only [synthCommand, h]

theorem advanceSample_ecode {s : State} (h : s.status.ecode = 0#4) : s.advanceSample.status.ecode = 0#4 := by
  rcases advanceSample_cases s with ⟨-, heq⟩ | ⟨-, -, heq⟩ | ⟨-, -, heq⟩ <;> rw [heq]
  · exact h
  · exact h
  · rfl

/-- Settles O46: the invariant has the note and the sample of every sample step, which so can only go on. -/
theorem noStepFromAGoodStateFaults : Obligations.NoStepFromAGoodStateFaults := by
  refine ⟨fun s f h hfault => ?fault, fun s t h hturn hphase hstep => ?ecode⟩
  case fault =>
    rcases h.step_next_or_refused with ⟨t, ht⟩ | ⟨ev, r, -, -, hr⟩
    · exact absurd (hfault.symm.trans ht) nofun
    · exact absurd (hfault.symm.trans hr) nofun
  case ecode =>
    have hbusy := busy_of_turn_engine hturn
    obtain ⟨-, hecode, -⟩ := h.busy_clean hbusy
    obtain ⟨w, hdecode, -⟩ := (h.generating hbusy hphase).shape
    have hphase' : s.takeEngineTurn.eng.phase = .generate := hphase
    rw [step_of_turn_engine hturn, engineStep_ok (s := s.takeEngineTurn) hdecode, exec_synthInstr,
      synthCommand_of_generate hphase'] at hstep
    obtain ⟨f, -, -, -, rfl⟩ := synthStep_next hstep
    exact advanceSample_ecode hecode

/-- Settles O47: no meaning refuses, so that only an event from outside can be refused. -/
theorem refusalsAreOutsideTheContract : Obligations.RefusalsAreOutsideTheContract := by
  intro s r h
  rcases step_cases s with ⟨i, -, -, hs⟩ | ⟨e, -, -, hs⟩ | ⟨ev, hturn, hs⟩ | ⟨-, hs⟩ <;> rw [hs] at h
  · exact absurd h (exec_ne_refused i _ r)
  · cases h
  · rcases busEvent_next_or_refused ev s.takeOutsideTurn with ⟨t, ht⟩ | ⟨hcontract, -⟩
    · exact absurd (h.symm.trans ht) nofun
    · exact ⟨ev, ((turn_eq_outside s ev).1 hturn).1, hcontract⟩
  · cases h

/-! ### The engine steps that are left (R241) -/

/-- A bound on the engine steps of the command in flight. Before the first step of a SYNTH the number of samples
is not known yet, but they must fit `PCMBUF`. -/
def stepsLeft (s : State) : Nat :=
  match s.eng.phase with
  | .start => s.pcmDepth + 1
  | .generate => s.ncount.toNat * s.eng.n - (s.eng.np * s.eng.n + s.eng.kp)

theorem stepsLeft_of_start {s : State} (h : s.eng.phase = .start) : stepsLeft s = s.pcmDepth + 1 := by
  simp only [stepsLeft, h]

theorem stepsLeft_of_generate {s : State} (h : s.eng.phase = .generate) :
    stepsLeft s = s.ncount.toNat * s.eng.n - (s.eng.np * s.eng.n + s.eng.kp) := by
  simp only [stepsLeft, h]

theorem stepsLeft_with_pointers {s : State} (h : s.eng.phase = .generate) (np kp : Nat) :
    stepsLeft { s with eng := { s.eng with np := np, kp := kp } } =
      s.ncount.toNat * s.eng.n - (np * s.eng.n + kp) :=
  stepsLeft_of_generate h

/-- An engine step of the command `i` completes it, with `DONE` as R92 and R181 have it, or leaves fewer steps. -/
def CompletesOrAdvances (i : Instr) (s t : State) : Prop :=
  (t.status.busy = true ∧ t.eng.cw = s.eng.cw ∧ stepsLeft t < stepsLeft s) ∨
    (t.status.busy = false ∧ (t.status.done = false ↔ i = .clear))

theorem completes_of_done {i : Instr} {s t : State} (hidle : t.status.busy = false) (hdone : t.status.done = true)
    (hi : i ≠ .clear) : CompletesOrAdvances i s t :=
  .inr ⟨hidle, fun h => (not_busy_and_idle hdone h).elim, fun h => absurd h hi⟩

theorem advanceSample_completesOrAdvances {s : State} (hbusy : s.status.busy = true) (hphase : s.eng.phase = .generate)
    (hg : Generating s) {i : Instr} (hi : i ≠ .clear) : CompletesOrAdvances i s s.advanceSample := by
  have hlt := hg.sample_lt
  have hkp := hg.kp_bound
  rcases advanceSample_cases s with ⟨hmore, heq⟩ | ⟨hlast, -, heq⟩ | ⟨-, -, heq⟩ <;> rw [heq]
  · refine .inl ⟨hbusy, rfl, ?_⟩
    rw [stepsLeft_with_pointers hphase, stepsLeft_of_generate hphase]
    omega
  · refine .inl ⟨hbusy, rfl, ?_⟩
    rw [stepsLeft_with_pointers hphase, stepsLeft_of_generate hphase, Nat.succ_mul]
    omega
  · exact completes_of_done rfl rfl hi

theorem synthStart_completesOrAdvances {s : State} (hbusy : s.status.busy = true) (sh : Option Wave)
    (hstart : sh ≠ none → s.eng.phase = .start) {i : Instr} (hi : i ≠ .clear) :
    CompletesOrAdvances i s (synthStart sh s) := by
  rcases synthStart_cases sh s with ⟨-, heq⟩ | ⟨j, -, -, heq⟩ | ⟨-, -, -, heq⟩ | ⟨d, n, -, -, -, ⟨-, heq⟩ | ⟨w, -, -, heq⟩ |
    ⟨w, -, -, -, heq⟩ | ⟨w, -, -, -, -, heq⟩ | ⟨w, hw, -, hfits, -, heq⟩⟩ <;> rw [heq]
  case inr.inr.inr.inr.inr.inr.inr =>
    refine .inl ⟨hbusy, rfl, ?_⟩
    rw [stepsLeft_of_start (hstart (by simp [hw])), stepsLeft_of_generate rfl]
    exact Nat.lt_succ_of_le ((Nat.sub_le _ _).trans hfits)
  all_goals exact completes_of_done rfl rfl hi

theorem synthInstr_ne_clear (w : Wave) : synthInstr w ≠ .clear := by
  cases w <;> nofun

theorem oscInstr_ne_clear (w : Wave) (c : Nat) : oscInstr w c ≠ .clear := by
  cases w <;> nofun

theorem oscCommand_completes (sh : Option Wave) (c : Nat) (s : State) {i : Instr} (hi : i ≠ .clear) :
    CompletesOrAdvances i s (oscCommand sh c s) := by
  obtain ⟨f, x, code, info, h⟩ := oscCommand_writes sh c s
  rw [h]
  exact completes_of_done rfl rfl hi

theorem exec_completesOrAdvances {s t : State} {i : Instr} (h : Inv s) (hbusy : s.status.busy = true)
    (hdecode : decode s.eng.cw = .ok i) (hexec : exec i s = .next t) : CompletesOrAdvances i s t := by
  have hnop : i ≠ .nop := fun hi => (h.busy_clean hbusy).2.2 (decode_eq_nop.1 (hi ▸ hdecode))
  rcases exec_cases hexec with ⟨hi, -⟩ | ⟨hi, -⟩ | ⟨hi, rfl⟩ | ⟨rfl, rfl⟩ | ⟨c, f, rfl, -, rfl⟩ | ⟨c, rfl, -, rfl⟩ |
    ⟨rfl, -, rfl⟩ | ⟨d, n, rfl, -, rfl⟩ | ⟨w, c, rfl, rfl⟩ | ⟨c, rfl, rfl⟩ | ⟨w, rfl, hphase, rfl⟩ | ⟨rfl, rfl⟩ |
    ⟨w, rfl, hphase, hstep⟩
  · exact absurd hi hnop
  · exact absurd hi hnop
  · exact .inr ⟨rfl, fun _ => hi, fun _ => rfl⟩
  · exact completes_of_done rfl rfl nofun
  · exact completes_of_done rfl rfl nofun
  · exact completes_of_done rfl rfl nofun
  · exact completes_of_done rfl rfl nofun
  · exact completes_of_done rfl rfl nofun
  · exact oscCommand_completes _ c s (oscInstr_ne_clear w c)
  · exact oscCommand_completes _ c s nofun
  · exact synthStart_completesOrAdvances hbusy _ (fun _ => hphase) (synthInstr_ne_clear w)
  · exact synthStart_completesOrAdvances hbusy none (fun hn => absurd rfl hn) nofun
  · obtain ⟨f, -, -, -, rfl⟩ := synthStep_next hstep
    have hg := (h.generating hbusy hphase).writePcm h.nseq_range.2 (s.eng.np * s.eng.n + s.eng.kp)
      (synthValue w (s.noteCode s.eng.np) f s.eng.kp s)
    exact advanceSample_completesOrAdvances (s := s.writePcm _ _) hbusy hphase hg (synthInstr_ne_clear w)

/-! ### Completion (R241) -/

/-- No meaning looks at what the outside will do, or changes it. -/
theorem pending_of_effect {i : Instr} {s t : State} (h : CommandEffect s i t) : t.pending = s.pending := by
  cases h <;> rfl

/-- What is still to come before the command in flight is complete: events from outside and engine steps. -/
def workLeft (s : State) : Nat := s.pending.length + stepsLeft s

/-- From a good busy state with a host that keeps its contract, one step leaves less to come, or the command is
complete, or a reset was the event. -/
theorem step_progress {s : State} (h : Inv s) (hbusy : s.status.busy = true)
    (hcontract : ∀ ev ∈ s.pending, ev.inContract = true) :
    ∃ t, step s = .next t ∧ (∀ ev ∈ t.pending, ev ∈ s.pending) ∧
      ((t.status.busy = true ∧ t.eng.cw = s.eng.cw ∧ workLeft t < workLeft s) ∨
        (t.status.busy = false ∧
          (BusEvent.reset ∈ s.pending ∨ (t.status.done = false ↔ decode s.eng.cw = .ok .clear)))) := by
  rcases h.step_next_or_refused with ⟨t, hstep⟩ | ⟨ev, r, hturn, hout, -⟩
  case inr =>
    have hin := hcontract ev (List.mem_of_mem_head? ((turn_eq_outside s ev).1 hturn).1)
    exact (not_busy_and_idle hin hout).elim
  refine ⟨t, hstep, ?_⟩
  cases step_effect hstep with
  | command i _ hturn hdecode hexec heff =>
    have hpending : t.pending = s.pending := pending_of_effect (s := s.takeEngineTurn) heff
    refine ⟨fun ev hev => hpending ▸ hev, ?_⟩
    rcases exec_completesOrAdvances (s := s.takeEngineTurn) h.takeEngineTurn hbusy hdecode hexec with
      ⟨hbusy', hcw, hless⟩ | ⟨hidle, hdone⟩
    · refine .inl ⟨hbusy', hcw, ?_⟩
      rw [workLeft, hpending]
      exact Nat.add_lt_add_left hless _
    · rw [hdecode]
      exact .inr ⟨hidle, .inr (hdone.trans ⟨congrArg _, Except.ok.inj⟩)⟩
  | illegal e _ hdecode =>
    rw [hdecode]
    exact ⟨fun _ hev => hev, .inr ⟨rfl, .inr ⟨nofun, nofun⟩⟩⟩
  | idle hturn => exact (not_busy_and_idle hbusy (idle_of_turn_idle hturn)).elim
  | outside ev _ hturn heff =>
    have hhead : s.pending.head? = some ev := ((turn_eq_outside s ev).1 hturn).1
    have hless : s.pending.tail.length < s.pending.length := by
      have hmem := List.length_pos_of_mem (List.mem_of_mem_head? hhead)
      rw [List.length_tail]
      omega
    cases heff with
    | accept w hidle => exact (not_busy_and_idle hbusy hidle).elim
    | register a data r hidle => exact (not_busy_and_idle hbusy hidle).elim
    | nseq a data hidle => exact (not_busy_and_idle hbusy hidle).elim
    | reset =>
      exact ⟨fun _ hev => List.mem_of_mem_tail hev, .inr ⟨rfl, .inl (List.mem_of_mem_head? hhead)⟩⟩
    | read | unchanged | ignored =>
      exact ⟨fun _ hev => List.mem_of_mem_tail hev, .inl ⟨hbusy, rfl, Nat.add_lt_add_right hless _⟩⟩

theorem run_succ {s t : State} (h : step s = .next t) (k : Nat) :
    Sys2Proof.core.run (k + 1) s = Sys2Proof.core.run k t := by
  have hstep : Sys2Proof.core.step s = .next t := h
  simp only [Host.Core.run, hstep]

/-- Settles O48: by induction on what is left to come, which each step makes less. -/
theorem everyAcceptedCommandCompletes : Obligations.EveryAcceptedCommandCompletes := by
  intro s h hbusy hcontract
  induction hwork : workLeft s using Nat.strong_induction_on generalizing s with
  | _ work ih =>
    obtain ⟨u, hstep, hsub, ⟨hbusy', hcw, hless⟩ | ⟨hidle, hdone⟩⟩ := step_progress h hbusy hcontract
    · obtain ⟨k, t, hrun, hidle, hdone⟩ := ih (workLeft u) (hwork ▸ hless) u (stepKeepsTheInvariant s u h hstep) hbusy'
        (fun ev hev => hcontract ev (hsub ev hev)) rfl
      exact ⟨k + 1, t, (run_succ hstep k).trans hrun, hidle,
        fun hnone => hcw ▸ hdone fun hin => hnone (hsub _ hin)⟩
    · exact ⟨1, u, run_succ hstep 0, hidle, fun hnone => hdone.resolve_left hnone⟩

end Sys2Proof.Machine
end

section
/-! PROOFS. TQUANT, the OSC commands of a recognised shape and PCMQ (spec/42_time_quantizer.md R112,
spec/43_oscillator.md R135 to R137, spec/44_pcm_quantizer.md R151). -/

namespace Sys2Proof.Machine

/-- Settles O10: the outcome by whether `BPM` has an axis. -/
theorem tquantWritesTheAxis : Obligations.TquantWritesTheAxis :=
  ⟨fun _ _ _ haxis => exec_tquant_of_some haxis, fun _ haxis => exec_tquant_of_none haxis⟩

/-- Settles O14: the pattern of 16 bits is extended with zeros. -/
theorem pcmqQuantizesSample : Obligations.PcmqQuantizesSample := by
  refine ⟨rfl, fun s => ?_⟩
  have hpcm : (s16 (quant s.sample)).setWidth 32 = 0#16 ++ BitVec.ofInt 16 (quant s.sample) :=
    setWidth_eq_zero_append _
  rw [← hpcm]
  rfl

/-! ### The last check of R135, and the sample -/

section
variable {w : Wave} {c : Nat} {s : State} (hnote : c ≤ 12) (haxv : s.status.axv = true)
  (hidx : s.kidx.toNat < s.nsamp.toNat)
include hnote haxv hidx

theorem oscCommand_of_checks_passed {f : F64} (hf : promTable[c]? = some f) (hshape : shapeParamOk w s = true) :
    oscCommand (some w) c s =
      ({ s with
          freq := f, sample := oscSample w c f (timeValue s.kidx.toNat s.dur s.nsamp.toNat) s } : State).complete := by
  simp only [oscCommand, (frequencyOf_of_le hnote).trans hf, if_neg (ne_false_of_eq_true haxv), if_neg hidx.not_ge,
    if_neg (ne_false_of_eq_true hshape)]

end

theorem exec_oscInstr (w : Wave) (c : Nat) (s : State) :
    exec (oscInstr w c) s = .next (oscCommand (some w) c s) := by
  cases w <;> rfl

/-- Settles O11: with every check passed, the three shapes write the note's frequency and their own sample. -/
theorem oscWritesOneSample : Obligations.OscWritesOneSample := by
  intro s c f hnote hf haxv hidx
  have hsample {w : Wave} (hshape : shapeParamOk w s = true) :=
    (exec_oscInstr w c s).trans (congrArg _ (oscCommand_of_checks_passed hnote haxv hidx hf hshape))
  exact ⟨hsample (w := .sine) rfl, hsample (w := .pulse), hsample (w := .saw)⟩

/-! ### The first error of R135 -/

section
variable {sh : Option Wave} {c : Nat} {s : State}

theorem oscReport_of_note_invalid (hnote : 12 < c) : oscReport sh c s = 1#4 := if_pos hnote

theorem oscReport_of_axis_not_ready (hnote : c ≤ 12) (haxv : s.status.axv = false) : oscReport sh c s = 7#4 :=
  (if_neg hnote.not_gt).trans (if_pos haxv)

variable (hnote : c ≤ 12) (haxv : s.status.axv = true)
include hnote haxv

theorem oscReport_of_index_out_of_range (hidx : s.nsamp.toNat ≤ s.kidx.toNat) : oscReport sh c s = 8#4 :=
  (if_neg hnote.not_gt).trans ((if_neg (ne_false_of_eq_true haxv)).trans (if_pos hidx))

variable (hidx : s.kidx.toNat < s.nsamp.toNat)
include hidx

theorem oscReport_none_of_checks_passed : oscReport none c s = 3#4 :=
  (if_neg hnote.not_gt).trans ((if_neg (ne_false_of_eq_true haxv)).trans (if_neg hidx.not_ge))

theorem oscReport_some_of_checks_passed (w : Wave) :
    oscReport (some w) c s = if shapeParamOk w s then 0#4 else 4#4 := by
  refine (if_neg hnote.not_gt).trans ((if_neg (ne_false_of_eq_true haxv)).trans ((if_neg hidx.not_ge).trans ?_))
  cases w <;> rfl

end

theorem noteInfo_index_zero_mod (c : Nat) : noteInfo c 0 = BitVec.ofNat 32 (c % 256 * 65536) := by
  rw [← noteInfo_index_zero (Nat.mod_lt c (by norm_num)), noteInfo, noteInfo, Nat.mod_mod]

/-- What an OSC command leaves, by the code that it reports. -/
theorem oscCommand_reports (sh : Option Wave) (c : Nat) (s : State) :
    oscCommand sh c s =
        { s with
          status := doneWith s.status (oscReport sh c s)
          errinfo := if 12 < c then BitVec.ofNat 32 (c % 256 * 65536) else 0#32
          freq := (oscCommand sh c s).freq
          sample := (oscCommand sh c s).sample } ∧
      (oscReport sh c s ≠ 0#4 → (oscCommand sh c s).freq = s.freq ∧ (oscCommand sh c s).sample = s.sample) := by
  rcases oscCommand_cases sh c s with ⟨hnote, heq⟩ | ⟨hnote, haxv, heq⟩ | ⟨hnote, haxv, hidx, heq⟩ |
    ⟨hnote, haxv, hidx, rfl, heq⟩ | ⟨w, hnote, haxv, hidx, rfl, hshape, heq⟩ |
    ⟨w, f, hnote, haxv, hidx, rfl, hshape, -, heq⟩ <;> rw [heq]
  · rw [oscReport_of_note_invalid hnote, if_pos hnote, ← noteInfo_index_zero_mod]
    exact ⟨rfl, fun _ => ⟨rfl, rfl⟩⟩
  · rw [oscReport_of_axis_not_ready hnote haxv, if_neg hnote.not_gt]
    exact ⟨rfl, fun _ => ⟨rfl, rfl⟩⟩
  · rw [oscReport_of_index_out_of_range hnote haxv hidx, if_neg hnote.not_gt]
    exact ⟨rfl, fun _ => ⟨rfl, rfl⟩⟩
  · rw [oscReport_none_of_checks_passed hnote haxv hidx, if_neg hnote.not_gt]
    exact ⟨rfl, fun _ => ⟨rfl, rfl⟩⟩
  · rw [oscReport_some_of_checks_passed hnote haxv hidx, hshape, if_neg hnote.not_gt]
    exact ⟨rfl, fun _ => ⟨rfl, rfl⟩⟩
  · rw [oscReport_some_of_checks_passed hnote haxv hidx, hshape, if_neg hnote.not_gt]
    exact ⟨rfl, fun hn => absurd rfl hn⟩

/-- Settles O12: the command and its report make the same checks in the same order. -/
theorem oscReportsTheFirstError : Obligations.OscReportsTheFirstError := by
  intro sh s c
  refine ⟨oscCommand sh c s, ?_, oscCommand_reports sh c s⟩
  cases sh with
  | none => exact exec_oscSh3 c s
  | some w => exact exec_oscInstr w c s

end Sys2Proof.Machine
end

section
/-! PROOFS. The first step of a SYNTH of a recognised shape (spec/45_sequencer.md R160, R163 to R165, R167). -/

namespace Sys2Proof.Machine

/-! ### The checks of R160 after the tempo, an equation per outcome -/

/-- The axis and `OUTLEN` of R160, as they stand once the tempo is valid. -/
def State.withNewAxis (s : State) (d : F64) (n : Nat) : State := ({ s with outlen := 0#32 } : State).setAxis d n

section
variable {w : Wave} {s : State} {d : F64} {n : Nat} (hok : NotesAndTempoOk s d n)
include hok

theorem synthStart_some_of_notesAndTempoOk :
    synthStart (some w) s =
      if shapeParamOk w s = false then (s.withNewAxis d n).raise .invalidShapeParameter 0#32
      else if s.pcmDepth < s.ncount.toNat * n then (s.withNewAxis d n).raise .capacityExceeded 0#32
      else if s.ncount.toNat = 0 then ((s.withNewAxis d n).beginSamples n).finishSynth
      else (s.withNewAxis d n).beginSamples n := by
  obtain ⟨hcount, hnotes, haxis⟩ := hok
  have hshape : shapeParamOk w (s.withNewAxis d n) = shapeParamOk w s := by cases w <;> rfl
  rw [← hshape]
  refine (if_neg hcount.not_gt).trans ?_
  rw [firstBadNote_with_outlen, (firstBadNote_eq_none s _).2 hnotes]
  dsimp only
  rw [haxis]
  rfl

theorem synthStart_of_shape_param_bad (hshape : shapeParamOk w s = false) :
    synthStart (some w) s = (s.withNewAxis d n).raise .invalidShapeParameter 0#32 := by
  rw [synthStart_some_of_notesAndTempoOk hok, if_pos hshape]

variable (hshape : shapeParamOk w s = true)
include hshape

theorem synthStart_of_output_too_long (hlong : s.pcmDepth < s.ncount.toNat * n) :
    synthStart (some w) s = (s.withNewAxis d n).raise .capacityExceeded 0#32 := by
  rw [synthStart_some_of_notesAndTempoOk hok, if_neg (ne_false_of_eq_true hshape), if_pos hlong]

variable (hfits : s.ncount.toNat * n ≤ s.pcmDepth)
include hfits

theorem synthStart_of_no_notes (hzero : s.ncount.toNat = 0) :
    synthStart (some w) s = ((s.withNewAxis d n).beginSamples n).finishSynth := by
  rw [synthStart_some_of_notesAndTempoOk hok, if_neg (ne_false_of_eq_true hshape), if_neg hfits.not_gt, if_pos hzero]

theorem synthStart_of_checks_passed (hpos : 0 < s.ncount.toNat) :
    synthStart (some w) s = (s.withNewAxis d n).beginSamples n := by
  rw [synthStart_some_of_notesAndTempoOk hok, if_neg (ne_false_of_eq_true hshape), if_neg hfits.not_gt, if_neg hpos.ne']

end

theorem exec_synthInstr_of_start (w : Wave) {s : State} (h : s.eng.phase = .start) :
    exec (synthInstr w) s = .next (synthStart (some w) s) :=
  (exec_synthInstr w s).trans (synthCommand_of_start h)

/-- Settles O15: the three shapes differ in the parameter that they check. -/
theorem synthFirstStepSetsUpTheRun : Obligations.SynthFirstStepSetsUpTheRun := by
  intro s d n hstart hpos hok hfits t
  have hsetup {w : Wave} (hshape : shapeParamOk w s = true) : exec (synthInstr w) s = .next t :=
    (exec_synthInstr_of_start w hstart).trans (congrArg _ (synthStart_of_checks_passed hok hshape hfits hpos))
  exact ⟨hsetup (w := .sine) rfl, hsetup (w := .pulse), hsetup (w := .saw)⟩

theorem notesAndTempoOk_of_no_notes {s : State} {d : F64} {n : Nat} (hzero : s.ncount.toNat = 0)
    (haxis : axis s.bpm = some (d, n)) : NotesAndTempoOk s d n :=
  ⟨by omega, fun j hj => by omega, haxis⟩

/-- Settles O16: without a note every check of the notes and of the output passes, and `finish` is at once. -/
theorem synthOfNoNotesCompletesAtOnce : Obligations.SynthOfNoNotesCompletesAtOnce := by
  intro s d n hstart hcount haxis i hi
  have hzero : s.ncount.toNat = 0 := congrArg BitVec.toNat hcount
  obtain ⟨w, rfl, hshape⟩ : ∃ w, i = synthInstr w ∧ shapeParamOk w s = true := by
    rcases hi with rfl | ⟨rfl, hduty⟩ | ⟨rfl, hwidth⟩
    · exact ⟨.sine, rfl, rfl⟩
    · exact ⟨.pulse, rfl, hduty⟩
    · exact ⟨.saw, rfl, hwidth⟩
  have hstep := (exec_synthInstr_of_start w hstart).trans (congrArg _
    (synthStart_of_no_notes (notesAndTempoOk_of_no_notes hzero haxis) hshape (by rw [hzero]; omega) hzero))
  have houtlen : BitVec.ofNat 32 (s.ncount.toNat * n) = 0#32 := by rw [hzero, Nat.zero_mul]
  refine ⟨_, hstep, ?_, fun _ => rfl⟩
  exact congrArg (fun o => { ((s.withNewAxis d n).beginSamples n).finishSynth with outlen := o }) houtlen

/-- Settles O17: the outcome by the first check of R160 that fails. -/
theorem synthReportsTheFirstError : Obligations.SynthReportsTheFirstError := by
  intro w s hstart
  rw [exec_synthInstr_of_start w hstart]
  refine ⟨fun hcount => ?capacity, fun j hcount hj hbad hlow hdepth => ?note, fun hcount hnotes haxis => ?tempo,
    fun d n hok hshape => ?shape, fun d n hok hshape hlong => ?output⟩
  case capacity =>
    rw [synthStart_of_ncount_exceeds _ hcount]
    rfl
  case note =>
    rw [synthStart_of_note_invalid _ hcount (firstBadNote_of_lowest hj hbad hlow),
      noteInfo_eq_add (noteCode_lt s j) (by omega)]
    rfl
  case tempo =>
    rw [synthStart_of_tempo_invalid _ hcount hnotes haxis]
    rfl
  case shape =>
    rw [synthStart_of_shape_param_bad hok hshape]
    rfl
  case output =>
    rw [synthStart_of_output_too_long hok hshape hlong]
    rfl

end Sys2Proof.Machine
end

section
/-! PROOFS. The sample steps of a SYNTH and the whole run (spec/45_sequencer.md R161, R162,
spec/70_reset_and_hazards.md R236, R240): after `m` sample steps the first `m` samples stand in `PCMBUF`. -/

namespace Sys2Proof.Machine

/-! ### The pointers (R161), an equation per case -/

section
variable {s : State}

theorem advanceSample_of_more_samples (h : s.eng.kp + 1 < s.eng.n) :
    s.advanceSample = { s with eng := { s.eng with kp := s.eng.kp + 1 } } := if_pos h

theorem advanceSample_of_more_notes (hk : s.eng.n ≤ s.eng.kp + 1) (hn : s.eng.np + 1 ≠ s.ncount.toNat) :
    s.advanceSample = { s with eng := { s.eng with kp := 0, np := s.eng.np + 1 } } :=
  (if_neg hk.not_gt).trans (if_neg hn)

theorem advanceSample_of_end (hk : s.eng.n ≤ s.eng.kp + 1) (hn : s.eng.np + 1 = s.ncount.toNat) :
    s.advanceSample = ({ s with eng := { s.eng with kp := 0, np := s.eng.np + 1 } } : State).finishSynth :=
  (if_neg hk.not_gt).trans (if_pos hn)

end

theorem readByte_advanceSample (s : State) (a : Nat) : s.advanceSample.readByte a = s.readByte a :=
  readByte_congr (advanceSample_mem s) (advanceSample_epoch s) a

theorem pcmSample_congr {s t : State} (h : ∀ a, t.readByte a = s.readByte a) (n : Nat) :
    t.pcmSample n = s.pcmSample n := by
  rw [State.pcmSample, State.pcmSample, h, h]

/-- The state after the sample step of note code `c`, whose ROM entry is `f`. -/
def State.afterSample (w : Wave) (f : F64) (s : State) : State :=
  (s.writePcm (s.eng.np * s.eng.n + s.eng.kp) (synthValue w (s.noteCode s.eng.np) f s.eng.kp s)).advanceSample

theorem pcmSample_afterSample_same (w : Wave) (f : F64) (s : State) :
    (s.afterSample w f).pcmSample (s.eng.np * s.eng.n + s.eng.kp) =
      synthValue w (s.noteCode s.eng.np) f s.eng.kp s := by
  rw [State.afterSample, pcmSample_congr (readByte_advanceSample _), pcmSample_writePcm_same]

theorem pcmSample_afterSample_other (w : Wave) (f : F64) (s : State) {k : Nat}
    (h : k ≠ s.eng.np * s.eng.n + s.eng.kp) : (s.afterSample w f).pcmSample k = s.pcmSample k := by
  rw [State.afterSample, pcmSample_congr (readByte_advanceSample _), pcmSample_writePcm_other _ _ h]

theorem readByte_afterSample_other (w : Wave) (f : F64) (s : State) {a : Nat}
    (hlow : a ≠ pcmAddr (s.eng.np * s.eng.n + s.eng.kp)) (hhigh : a ≠ pcmAddr (s.eng.np * s.eng.n + s.eng.kp) + 1) :
    (s.afterSample w f).readByte a = s.readByte a := by
  rw [State.afterSample, readByte_advanceSample, readByte_writePcm_other _ _ hlow hhigh]

/-- Settles O19: the sample is written, then the pointers are moved, which stores nothing. -/
theorem synthSampleStepWritesOneSample : Obligations.SynthSampleStepWritesOneSample := by
  intro w s f hphase hnp hnote hf hidx
  refine ⟨s.afterSample w f, ?step, pcmSample_afterSample_same w f s,
    fun a hlow hhigh => readByte_afterSample_other w f s hlow hhigh, fun hk => ?more, fun hk hn => ?note,
    fun hk hn => ?last⟩
  case step =>
    rw [exec_synthInstr, synthCommand_of_generate hphase]
    exact synthStep_of_lt hnp ((frequencyOf_of_le hnote).trans hf) hidx
  all_goals
    have hmem := advanceSample_mem
      (s.writePcm (s.eng.np * s.eng.n + s.eng.kp) (synthValue w (s.noteCode s.eng.np) f s.eng.kp s))
    rw [State.afterSample, hmem]
  case more => exact advanceSample_of_more_samples (s := s.writePcm _ _) hk
  case note => exact advanceSample_of_more_notes (s := s.writePcm _ _) hk hn
  case last => exact advanceSample_of_end (s := s.writePcm _ _) hk hn

/-! ### After `m` samples -/

/-- The frequency of a note code, for the codes that the ROM has. -/
def noteFrequency (c : Nat) : F64 := promTable[c]?.getD zero64

/-- Sample `i` of the output of the SYNTH that starts in `s` with the axis `(d, n)`. -/
def synthOutput (w : Wave) (s : State) (d : F64) (n i : Nat) : BitVec 16 :=
  s16 (quant (oscSample w (s.noteCode (i / n)) (noteFrequency (s.noteCode (i / n))) (timeValue (i % n) d n) s))

/-- The state before sample `m` of the SYNTH that starts in `s`, but for memory and the model's gaps. -/
def State.duringRun (s : State) (d : F64) (n m : Nat) (mem : Memory) (gaps : List Nat) : State :=
  { s with
    outlen := 0#32, dur := d, nsamp := BitVec.ofNat 32 n, status := { s.status with axv := true }
    eng := { cw := s.eng.cw, np := m / n, kp := m % n, n := n, phase := .generate }
    mem := mem, gaps := gaps }

/-- The first `m` samples of the SYNTH that starts in `s` stand in `u`, and no other byte has changed. -/
structure Filled (w : Wave) (s : State) (d : F64) (n m : Nat) (u : State) : Prop where
  written : ∀ i, i < m → u.pcmSample i = synthOutput w s d n i
  kept : ∀ a, a < pcmBase ∨ pcmBase + 2 * m ≤ a → u.readByte a = s.readByte a

/-- An oscillator sample depends on the two shape parameters alone, of all registers. -/
theorem oscSample_congr {s u : State} (hduty : u.duty = s.duty) (hwidth : u.width = s.width) (w : Wave) (c : Nat)
    (f tk : F64) : oscSample w c f tk u = oscSample w c f tk s := by
  unfold oscSample
  rw [hduty, hwidth]

/-- What the whole run of a SYNTH starts from (the premises of SynthFillsThePcmBuffer). -/
structure RunStart (w : Wave) (s : State) (d : F64) (n : Nat) : Prop where
  busy : s.status.busy = true
  start : s.eng.phase = .start
  decodes : decode s.eng.cw = .ok (synthInstr w)
  alone : s.pending = []
  nseq_range : s.nseqDepth ≤ 4096
  checked : NotesAndTempoOk s d n
  shape : shapeParamOk w s = true
  fits : s.ncount.toNat * n ≤ s.pcmDepth

theorem RunStart.axis_pos {w : Wave} {s : State} {d : F64} {n : Nat} (h : RunStart w s d n) : 0 < n := by
  obtain ⟨-, -, haxis⟩ := h.checked
  obtain ⟨-, -, -, -, -, hn, -⟩ := axis_some haxis
  exact hn

/-- With nothing pending, the engine makes every step of a busy block. -/
theorem step_of_busy_alone {s : State} (hbusy : s.status.busy = true) (halone : s.pending = []) {i : Instr}
    (hdecode : decode s.eng.cw = .ok i) : step s = exec i s.takeEngineTurn := by
  rw [step_of_turn_engine ((turn_eq_engine s).2 ⟨hbusy, .inl halone⟩)]
  exact engineStep_ok hdecode

section
variable {w : Wave} {s : State} {d : F64} {n m : Nat} (hs : RunStart w s d n)
include hs

/-- The first step, of a SYNTH with a note. -/
theorem step_start (hpos : 0 < s.ncount.toNat) :
    step s = .next (s.duringRun d n 0 s.mem s.gaps.tail) := by
  have hstart : s.takeEngineTurn.eng.phase = .start := hs.start
  have hshape : shapeParamOk w s.takeEngineTurn = true := by rw [← hs.shape]; cases w <;> rfl
  rw [step_of_busy_alone hs.busy hs.alone hs.decodes, exec_synthInstr_of_start w hstart,
    synthStart_of_checks_passed (s := s.takeEngineTurn) hs.checked hshape hs.fits hpos, State.duringRun,
    Nat.zero_div, Nat.zero_mod]
  rfl

omit hs in
theorem filled_zero (gaps : List Nat) : Filled w s d n 0 (s.duringRun d n 0 s.mem gaps) :=
  ⟨fun i hi => absurd hi (Nat.not_lt_zero i), fun _ _ => rfl⟩

variable {mem : Memory} {gaps : List Nat} (hu : Filled w s d n m (s.duringRun d n m mem gaps))
  (hm : m < s.ncount.toNat * n)

omit hs in
include hm in
/-- The note of sample `m`. -/
theorem div_lt_of_lt_output : m / n < s.ncount.toNat := Nat.div_lt_of_lt_mul (Nat.mul_comm _ _ ▸ hm)

include hu hm

/-- The run does not change its notes. -/
theorem noteCode_of_filled : (s.duringRun d n m mem gaps).noteCode (m / n) = s.noteCode (m / n) := by
  have hlt := div_lt_of_lt_output hm
  have hrange := hs.nseq_range
  obtain ⟨hcount, -, -⟩ := hs.checked
  rw [State.noteCode, hu.kept _ (.inl (by simp only [nseqBase, pcmBase]; omega)), State.noteCode]

/-- A sample step of the run. -/
theorem step_of_filled :
    step (s.duringRun d n m mem gaps) =
      .next ((s.duringRun d n m mem gaps.tail).afterSample w (noteFrequency (s.noteCode (m / n)))) := by
  obtain ⟨hcount, hnotes, -⟩ := hs.checked
  have hlt := div_lt_of_lt_output hm
  have hfreq : frequencyOf ((s.duringRun d n m mem gaps).noteCode (m / n)) =
      some (noteFrequency (s.noteCode (m / n))) := by
    obtain ⟨f, hf⟩ := frequencyOf_isSome (hnotes _ hlt)
    rw [noteCode_of_filled hs hu hm, hf, noteFrequency, ← frequencyOf_of_le (hnotes _ hlt), hf, Option.getD_some]
  have hidx : m / n * n + m % n < s.pcmDepth := by
    rw [Nat.div_add_mod']
    exact hm.trans_le hs.fits
  rw [step_of_busy_alone (s := s.duringRun d n m mem gaps) hs.busy hs.alone hs.decodes, exec_synthInstr,
    synthCommand_of_generate rfl]
  exact synthStep_of_lt (s := s.duringRun d n m mem gaps.tail) (hlt.trans_le hcount) hfreq hidx

/-- A sample step writes sample `m`, and no other byte. -/
theorem filled_afterSample :
    Filled w s d n (m + 1) ((s.duringRun d n m mem gaps).afterSample w (noteFrequency (s.noteCode (m / n)))) := by
  generalize hdef : s.duringRun d n m mem gaps = u at hu
  have hcode : u.noteCode u.eng.np = s.noteCode (m / n) := by
    subst hdef
    exact noteCode_of_filled hs hu hm
  have hidx : u.eng.np * u.eng.n + u.eng.kp = m := by
    subst hdef
    exact Nat.div_add_mod' m n
  refine ⟨fun i hi => ?_, fun a ha => ?_⟩
  · rcases Nat.lt_succ_iff_lt_or_eq.1 hi with hlt | rfl
    · rw [pcmSample_afterSample_other _ _ _ (by omega)]
      exact hu.written i hlt
    · have hsame := pcmSample_afterSample_same w (noteFrequency (s.noteCode (i / n))) u
      rw [hidx, hcode] at hsame
      rw [hsame]
      subst hdef
      exact congrArg (fun x => s16 (quant x)) (oscSample_congr rfl rfl w _ _ _)
  · rw [readByte_afterSample_other _ _ _ (by rw [hidx, pcmAddr]; omega) (by rw [hidx, pcmAddr]; omega)]
    exact hu.kept a (by omega)

end

/-! ### The pointers of the run -/

/-- The sample is stored before the pointers move. -/
theorem afterSample_duringRun (w : Wave) (f : F64) (s : State) (d : F64) (n m : Nat) (mem : Memory) (gaps : List Nat) :
    ∃ mem', (s.duringRun d n m mem gaps).afterSample w f = (s.duringRun d n m mem' gaps).advanceSample :=
  ⟨((s.duringRun d n m mem gaps).writePcm _ _).mem, rfl⟩

section
variable {s : State} {d : F64} {n m : Nat} (hn : 0 < n) (mem : Memory) (gaps : List Nat)
include hn

theorem advanceSample_duringRun (hmore : m + 1 < s.ncount.toNat * n) :
    (s.duringRun d n m mem gaps).advanceSample = s.duringRun d n (m + 1) mem gaps := by
  have hmod := Nat.mod_lt m hn
  have hdm := Nat.div_add_mod m n
  by_cases hk : m % n + 1 < n
  · obtain ⟨hdiv, hmod'⟩ : (m + 1) / n = m / n ∧ (m + 1) % n = m % n + 1 :=
      (Nat.div_mod_unique hn).2 ⟨by omega, hk⟩
    rw [advanceSample_of_more_samples (s := s.duringRun d n m mem gaps) hk, State.duringRun, State.duringRun, hdiv, hmod']
  · obtain ⟨hdiv, hmod'⟩ : (m + 1) / n = m / n + 1 ∧ (m + 1) % n = 0 :=
      (Nat.div_mod_unique hn).2 ⟨by rw [Nat.mul_succ]; omega, hn⟩
    have hnote : m / n + 1 ≠ s.ncount.toNat := by
      have hlt : (m + 1) / n < s.ncount.toNat := div_lt_of_lt_output hmore
      omega
    rw [advanceSample_of_more_notes (s := s.duringRun d n m mem gaps) (Nat.not_lt.1 hk) hnote, State.duringRun,
      State.duringRun, hdiv, hmod']

/-- After the last sample the command completes. -/
theorem advanceSample_duringRun_end (hend : m + 1 = s.ncount.toNat * n) :
    ∃ e : Engine, e.n = n ∧
      (s.duringRun d n m mem gaps).advanceSample = ({ s.duringRun d n m mem gaps with eng := e } : State).finishSynth := by
  obtain ⟨k, hcount⟩ : ∃ k, s.ncount.toNat = k + 1 :=
    Nat.exists_eq_succ_of_ne_zero fun hzero => by rw [hzero, Nat.zero_mul] at hend; omega
  obtain ⟨hdiv, hmod⟩ : m / n = k ∧ m % n = n - 1 :=
    (Nat.div_mod_unique hn).2 ⟨by rw [hcount, Nat.succ_mul, Nat.mul_comm k] at hend; omega, by omega⟩
  exact ⟨_, rfl, advanceSample_of_end (s := s.duringRun d n m mem gaps) (show n ≤ m % n + 1 by omega)
    (show m / n + 1 = s.ncount.toNat by omega)⟩

end

/-! ### The run -/

theorem run_one {s t : State} (h : step s = .next t) : Sys2Proof.core.run 1 s = .next t := run_succ h 0

/-- One step more at the end of a run. -/
theorem run_snoc {s t u : State} {k : Nat} (hrun : Sys2Proof.core.run k s = .next t) (h : step t = .next u) :
    Sys2Proof.core.run (k + 1) s = .next u := by
  induction k generalizing s with
  | zero =>
    cases hrun
    exact run_one h
  | succ k ih =>
    cases hstep : step s with
    | next s' =>
      rw [run_succ hstep] at hrun ⊢
      exact ih hrun
    | fault r =>
      have hs : Sys2Proof.core.step s = .fault r := hstep
      simp only [Host.Core.run, hs] at hrun
      cases hrun
    | refused r =>
      have hs : Sys2Proof.core.step s = .refused r := hstep
      simp only [Host.Core.run, hs] at hrun
      cases hrun

section
variable {w : Wave} {s : State} {d : F64} {n : Nat} (hs : RunStart w s d n)
include hs

/-- After the first step and `m` sample steps, the first `m` samples stand. -/
theorem run_to_sample (hpos : 0 < s.ncount.toNat) {m : Nat} (hm : m < s.ncount.toNat * n) :
    ∃ mem gaps, Sys2Proof.core.run (1 + m) s = .next (s.duringRun d n m mem gaps) ∧
      Filled w s d n m (s.duringRun d n m mem gaps) := by
  induction m with
  | zero => exact ⟨s.mem, s.gaps.tail, run_one (step_start hs hpos), filled_zero _⟩
  | succ m ih =>
    have hm' : m < s.ncount.toNat * n := Nat.lt_of_succ_lt hm
    obtain ⟨mem, gaps, hrun, hfilled⟩ := ih hm'
    have hnext := filled_afterSample (gaps := gaps.tail) hs ⟨hfilled.written, hfilled.kept⟩ hm'
    obtain ⟨mem', hmem'⟩ := afterSample_duringRun w (noteFrequency (s.noteCode (m / n))) s d n m mem gaps.tail
    rw [hmem', advanceSample_duringRun hs.axis_pos mem' gaps.tail hm] at hnext
    refine ⟨mem', gaps.tail, run_snoc hrun ?_, hnext⟩
    rw [step_of_filled hs hfilled hm', hmem', advanceSample_duringRun hs.axis_pos mem' gaps.tail hm]

/-- The state after the run: the completion of R162, with every sample in place. -/
theorem run_to_end :
    ∃ mem gaps e, e.n = n ∧
      Sys2Proof.core.run (1 + s.ncount.toNat * n) s =
        .next ({ s.duringRun d n 0 mem gaps with eng := e } : State).finishSynth ∧
      Filled w s d n (s.ncount.toNat * n) ({ s.duringRun d n 0 mem gaps with eng := e } : State).finishSynth := by
  by_cases hzero : s.ncount.toNat = 0
  case pos =>
    have hstart : s.takeEngineTurn.eng.phase = .start := hs.start
    have hshape : shapeParamOk w s.takeEngineTurn = true := by rw [← hs.shape]; cases w <;> rfl
    have hstep := step_of_busy_alone hs.busy hs.alone hs.decodes
    rw [exec_synthInstr_of_start w hstart,
      synthStart_of_no_notes (s := s.takeEngineTurn) hs.checked hshape hs.fits hzero] at hstep
    rw [hzero, Nat.zero_mul]
    exact ⟨s.mem, s.gaps.tail, ((s.takeEngineTurn.withNewAxis d n).beginSamples n).eng, rfl, run_one hstep,
      fun i hi => absurd hi (Nat.not_lt_zero i), fun _ _ => rfl⟩
  case neg =>
    have hpos : 0 < s.ncount.toNat := Nat.pos_of_ne_zero hzero
    obtain ⟨m, hm⟩ : ∃ m, s.ncount.toNat * n = m + 1 :=
      Nat.exists_eq_succ_of_ne_zero (Nat.mul_pos hpos hs.axis_pos).ne'
    have hlast : m < s.ncount.toNat * n := by omega
    obtain ⟨mem, gaps, hrun, hfilled⟩ := run_to_sample hs hpos hlast
    have hnext := filled_afterSample (gaps := gaps.tail) hs ⟨hfilled.written, hfilled.kept⟩ hlast
    obtain ⟨mem', hmem'⟩ := afterSample_duringRun w (noteFrequency (s.noteCode (m / n))) s d n m mem gaps.tail
    obtain ⟨e, he, hend⟩ := advanceSample_duringRun_end (d := d) hs.axis_pos mem' gaps.tail hm.symm
    have hstep := step_of_filled hs hfilled hlast
    rw [hmem', hend] at hnext hstep
    rw [hm]
    exact ⟨mem', gaps.tail, e, he, run_snoc hrun hstep, hnext⟩

/-- The sample of note `j` with index `k`. -/
theorem synthOutput_note {j k : Nat} {f : F64} (hk : k < n) (hf : promTable[s.noteCode j]? = some f) :
    synthOutput w s d n (j * n + k) =
      BitVec.ofInt 16 (quant (oscSample w (s.noteCode j) f (timeValue k d n) s)) := by
  obtain ⟨hdiv, hmod⟩ : (j * n + k) / n = j ∧ (j * n + k) % n = k :=
    (Nat.div_mod_unique hs.axis_pos).2 ⟨by rw [Nat.mul_comm, Nat.add_comm], hk⟩
  rw [synthOutput, hdiv, hmod, noteFrequency, hf, Option.getD_some, s16]

end

/-- Settles O20: the run from the acceptance to the completion, and what stands in memory then. -/
theorem synthFillsThePcmBuffer : Obligations.SynthFillsThePcmBuffer := by
  intro w s d n hbusy _ hstart hdecode halone hnseq hpcm hok hshape hfits
  have hs : RunStart w s d n := ⟨hbusy, hstart, hdecode, halone, hnseq, hok, hshape, hfits⟩
  obtain ⟨mem, gaps, e, rfl, hrun, hfilled⟩ := run_to_end hs
  refine ⟨_, hrun, rfl, rfl, ?outlen, rfl, ?nsamp, fun j k f hj hk hf => ?sample, hfilled.kept,
    rfl, rfl, rfl, rfl, rfl, rfl, rfl, rfl⟩
  case outlen =>
    have hlt : s.ncount.toNat * e.n < 2 ^ 32 := by omega
    exact (BitVec.toNat_ofNat _ _).trans (Nat.mod_eq_of_lt hlt)
  case nsamp => exact ofNat_toNat_of_axis hok.2.2
  case sample =>
    have hlt : j * e.n + k < s.ncount.toNat * e.n :=
      calc j * e.n + k < (j + 1) * e.n := by rw [Nat.succ_mul]; omega
        _ ≤ s.ncount.toNat * e.n := Nat.mul_le_mul_right _ hj
    rw [hfilled.written _ hlt, synthOutput_note hs hk hf]

end Sys2Proof.Machine
end

section
/-! PROOFS. What the first step of a SYNTH depends on (spec/45_sequencer.md R167), and that errors are precise
(spec/60_exceptions.md R192, R193). -/

namespace Sys2Proof.Machine

/-! ### The inputs of the first step (R167) -/

/-- The inputs of a SYNTH of shape `w` are the same in both states. -/
structure SameInputs (w : Wave) (s s' : State) : Prop where
  ncount : s.ncount = s'.ncount
  notes : ∀ j, j < s.ncount.toNat → s.noteCode j = s'.noteCode j
  bpm : s.bpm = s'.bpm
  duty : w = .pulse → s.duty = s'.duty
  width : w = .saw → s.width = s'.width
  nseqCap : s.nseqCap = s'.nseqCap
  pcmCap : s.pcmCap = s'.pcmCap

section
variable {w : Wave} {s s' : State} (h : SameInputs w s s')
include h

theorem SameInputs.nseqDepth : s.nseqDepth = s'.nseqDepth := congrArg BitVec.toNat h.nseqCap

theorem SameInputs.pcmDepth : s.pcmDepth = s'.pcmDepth := congrArg BitVec.toNat h.pcmCap

theorem SameInputs.shapeParamOk : shapeParamOk w s = shapeParamOk w s' := by
  cases w with
  | sine => rfl
  | pulse => exact congrArg isFinite (h.duty rfl)
  | saw => exact congrArg isFinite (h.width rfl)

theorem SameInputs.firstBadNote : firstBadNote s' s.ncount.toNat = firstBadNote s s.ncount.toNat := by
  cases hbad : Machine.firstBadNote s s.ncount.toNat with
  | none =>
    rw [firstBadNote_eq_none] at hbad ⊢
    exact fun j hj => h.notes j hj ▸ hbad j hj
  | some j =>
    obtain ⟨hj, hcode, hlow⟩ := firstBadNote_eq_some hbad
    exact firstBadNote_of_lowest hj (h.notes j hj ▸ hcode) fun i hi => h.notes i (hi.trans hj) ▸ hlow i hi

theorem SameInputs.notesAndTempoOk {d : F64} {n : Nat} (hok : NotesAndTempoOk s d n) : NotesAndTempoOk s' d n := by
  obtain ⟨hcount, hnotes, haxis⟩ := hok
  refine ⟨h.ncount ▸ h.nseqDepth ▸ hcount, fun j hj => ?_, h.bpm ▸ haxis⟩
  rw [← h.ncount] at hj
  exact h.notes j hj ▸ hnotes j hj

end

/-! ### The outcome of the first step -/

/-- The first step of a SYNTH that starts in `s` has one outcome in `t` and `t'` (the conclusion of
SynthOutcomeDependsOnItsInputsAlone). -/
def SameOutcome (s t t' : State) : Prop :=
  t.status.busy = t'.status.busy ∧ t.status.done = t'.status.done ∧ t.status.ecode = t'.status.ecode ∧
    t.outlen = t'.outlen ∧ t.eng.phase = t'.eng.phase ∧
    (t.status.busy = false → t.errinfo = t'.errinfo) ∧
    (t.status.ecode = 2#4 ∨ t.status.ecode = 4#4 ∨ (t.status.ecode = 6#4 ∧ s.ncount.toNat ≤ s.nseqDepth) ∨
      t.eng.phase = .generate → t.status.axv = t'.status.axv) ∧
    (t.status.ecode = 4#4 ∨ (t.status.ecode = 6#4 ∧ s.ncount.toNat ≤ s.nseqDepth) ∨
      t.eng.phase = .generate → t.dur = t'.dur ∧ t.nsamp = t'.nsamp) ∧
    (t.eng.phase = .generate → t.eng.n = t'.eng.n ∧ t.eng.np = t'.eng.np ∧ t.eng.kp = t'.eng.kp)

section
variable {s x x' : State} (e : BlockError) (info : Word) (houtlen : x.outlen = x'.outlen)
  (hstart : x.eng.phase = .start) (hstart' : x'.eng.phase = .start)
include houtlen hstart hstart'

/-- An error before the tempo: nothing is said of the axis. -/
theorem sameOutcome_of_early_error
    (hearly : e = .invalidNoteSymbol ∨ e = .capacityExceeded ∧ s.nseqDepth < s.ncount.toNat) :
    SameOutcome s (x.raise e info) (x'.raise e info) := by
  have hphase : x.eng.phase ≠ .generate := fun h => absurd (hstart.symm.trans h) nofun
  have hcode : e.code = 1#4 ∨ e.code = 6#4 ∧ s.nseqDepth < s.ncount.toNat := by
    rcases hearly with rfl | ⟨rfl, hlt⟩
    · exact .inl rfl
    · exact .inr ⟨rfl, hlt⟩
  have hlate : ¬ (e.code = 4#4 ∨ (e.code = 6#4 ∧ s.ncount.toNat ≤ s.nseqDepth) ∨ x.eng.phase = .generate) := by
    rcases hcode with hc | ⟨hc, hlt⟩ <;> rw [hc] <;> simp [hphase]
    exact hlt
  refine ⟨rfl, rfl, rfl, houtlen, hstart.trans hstart'.symm, fun _ => rfl, ?_, fun h => absurd h hlate,
    fun h => absurd h hphase⟩
  rintro (htempo | h)
  · have hc : e.code = 2#4 := htempo
    rcases hcode with hc' | ⟨hc', -⟩ <;> exact absurd (hc.symm.trans hc') (by decide)
  · exact absurd h hlate

/-- An error from the tempo on, with the same axis. -/
theorem sameOutcome_of_late_error (haxv : x.status.axv = x'.status.axv)
    (haxis : e ≠ .invalidTempo → x.dur = x'.dur ∧ x.nsamp = x'.nsamp) :
    SameOutcome s (x.raise e info) (x'.raise e info) := by
  have hphase : x.eng.phase ≠ .generate := fun h => absurd (hstart.symm.trans h) nofun
  refine ⟨rfl, rfl, rfl, houtlen, hstart.trans hstart'.symm, fun _ => rfl, fun _ => haxv, fun h => haxis ?_,
    fun h => absurd h hphase⟩
  rintro rfl
  have hcode : BlockError.invalidTempo.code = 4#4 ∨ BlockError.invalidTempo.code = 6#4 :=
    h.imp_right fun h => h.elim And.left fun h => absurd h hphase
  exact absurd hcode (by decide)

end

/-- Settles O21: both states take the same branch of R160, which leaves the same outcome. -/
theorem synthOutcomeDependsOnItsInputsAlone : Obligations.SynthOutcomeDependsOnItsInputsAlone := by
  intro w s s' t t' hstart hstart' hncount hnotes hbpm hduty hwidth hnseq hpcm hbusy hdone hecode hbusy' hdone' hecode'
    hexec hexec'
  have hin : SameInputs w s s' := ⟨hncount, hnotes, hbpm, hduty, hwidth, hnseq, hpcm⟩
  rw [exec_synthInstr_of_start w hstart] at hexec
  rw [exec_synthInstr_of_start w hstart'] at hexec'
  cases hexec
  cases hexec'
  change SameOutcome s _ _
  rcases synthStart_cases (some w) s with ⟨hcount, heq⟩ | ⟨j, hcount, hbad, heq⟩ | ⟨hcount, hgood, haxis, heq⟩ |
    ⟨d, n, hcount, hgood, haxis, hcases⟩
  · rw [heq, synthStart_of_ncount_exceeds _ (hin.ncount ▸ hin.nseqDepth ▸ hcount)]
    exact sameOutcome_of_early_error _ _ rfl hstart hstart' (.inr ⟨rfl, hcount⟩)
  · have hbad' : firstBadNote s' s'.ncount.toNat = some j := by
      rw [← hin.ncount, hin.firstBadNote]
      exact hbad
    rw [heq, synthStart_of_note_invalid _ (hin.ncount ▸ hin.nseqDepth ▸ hcount) hbad',
      hin.notes j (firstBadNote_eq_some hbad).1]
    exact sameOutcome_of_early_error _ _ rfl hstart hstart' (.inl rfl)
  · have hnotes' : ∀ j, j < s'.ncount.toNat → s'.noteCode j ≤ 12 := by
      rw [← firstBadNote_eq_none, ← hin.ncount, hin.firstBadNote]
      exact hgood
    rw [heq, synthStart_of_tempo_invalid _ (hin.ncount ▸ hin.nseqDepth ▸ hcount) hnotes' (hin.bpm ▸ haxis)]
    exact sameOutcome_of_late_error _ _ rfl hstart hstart' rfl fun hne => absurd rfl hne
  · have hok' := hin.notesAndTempoOk ⟨hcount, (firstBadNote_eq_none s _).1 hgood, haxis⟩
    rcases hcases with ⟨hnone, -⟩ | ⟨v, hv, hshape, heq⟩ | ⟨v, hv, hshape, hlong, heq⟩ | ⟨v, hv, hshape, hfits, hzero, heq⟩ |
      ⟨v, hv, hshape, hfits, hpos, heq⟩
    · cases hnone
    all_goals
      cases hv
      rw [hin.shapeParamOk] at hshape
    · rw [heq, synthStart_of_shape_param_bad hok' hshape]
      exact sameOutcome_of_late_error _ _ rfl hstart hstart' rfl fun _ => ⟨rfl, rfl⟩
    · rw [heq, synthStart_of_output_too_long hok' hshape (hin.ncount ▸ hin.pcmDepth ▸ hlong)]
      exact sameOutcome_of_late_error _ _ rfl hstart hstart' rfl fun _ => ⟨rfl, rfl⟩
    · rw [heq, synthStart_of_no_notes hok' hshape (hin.ncount ▸ hin.pcmDepth ▸ hfits) (hin.ncount ▸ hzero)]
      exact ⟨rfl, rfl, rfl, congrArg (fun m => BitVec.ofNat 32 (BitVec.toNat m * n)) hin.ncount, rfl, fun _ => rfl,
        fun _ => rfl, fun _ => ⟨rfl, rfl⟩, fun _ => ⟨rfl, rfl, rfl⟩⟩
    · rw [heq, synthStart_of_checks_passed hok' hshape (hin.ncount ▸ hin.pcmDepth ▸ hfits) (hin.ncount ▸ hpos)]
      exact ⟨hbusy.trans hbusy'.symm, hdone.trans hdone'.symm, hecode.trans hecode'.symm, rfl, rfl,
        fun hidle => (not_busy_and_idle hbusy hidle).elim, fun _ => rfl, fun _ => ⟨rfl, rfl⟩, fun _ => ⟨rfl, rfl, rfl⟩⟩

/-! ### Errors (R192) -/

/-- What a command that ends with an error leaves, by where the error stands among its checks. -/
inductive ErrorEffect (s : State) : Instr → State → Prop
  | plain (i : Instr) (e : BlockError) (info : Word) (hi : ¬ isSynth i) (htempo : e ≠ .invalidTempo)
      (hinfo : e ≠ .invalidNoteSymbol → info = 0#32) : ErrorEffect s i (s.raise e info)
  | tquant : ErrorEffect s .tquant s.raiseTempo
  | synthNotes (i : Instr) (e : BlockError) (info : Word) (hi : isSynth i)
      (he : e = .invalidNoteSymbol ∨ e = .capacityExceeded ∧ s.nseqDepth < s.ncount.toNat ∧ info = 0#32) :
      ErrorEffect s i (({ s with outlen := 0#32 } : State).raise e info)
  | synthTempo (i : Instr) (hi : isSynth i) : ErrorEffect s i ({ s with outlen := 0#32 } : State).raiseTempo
  | synthAfterAxis (i : Instr) (e : BlockError) (d : F64) (n : Nat) (hi : isSynth i)
      (haxis : axis s.bpm = some (d, n)) (hcount : s.ncount.toNat ≤ s.nseqDepth)
      (he : e = .invalidWaveformKind ∨ e = .invalidShapeParameter ∨ e = .capacityExceeded) :
      ErrorEffect s i ((s.withNewAxis d n).raise e 0#32)

theorem oscCommand_error {sh : Option Wave} {c : Nat} {s : State} {i : Instr} (hi : ¬ isSynth i)
    (herror : (oscCommand sh c s).status.ecode ≠ 0#4) : ErrorEffect s i (oscCommand sh c s) := by
  rcases oscCommand_cases sh c s with ⟨-, heq⟩ | ⟨-, -, heq⟩ | ⟨-, -, -, heq⟩ | ⟨-, -, -, -, heq⟩ |
    ⟨w, -, -, -, -, -, heq⟩ | ⟨w, f, -, -, -, -, -, -, heq⟩ <;> rw [heq] at herror ⊢
  · exact .plain i _ _ hi nofun fun hne => absurd rfl hne
  · exact .plain i _ _ hi nofun fun _ => rfl
  · exact .plain i _ _ hi nofun fun _ => rfl
  · exact .plain i _ _ hi nofun fun _ => rfl
  · exact .plain i _ _ hi nofun fun _ => rfl
  · exact absurd rfl herror

theorem synthStart_error {sh : Option Wave} {s : State} {i : Instr} (hi : isSynth i) (hs : s.status.ecode = 0#4)
    (herror : (synthStart sh s).status.ecode ≠ 0#4) : ErrorEffect s i (synthStart sh s) := by
  rcases synthStart_cases sh s with ⟨hcount, heq⟩ | ⟨j, -, -, heq⟩ | ⟨-, -, -, heq⟩ | ⟨d, n, hcount, -, haxis, hcases⟩
  · exact heq ▸ .synthNotes i _ _ hi (.inr ⟨rfl, hcount, rfl⟩)
  · exact heq ▸ .synthNotes i _ _ hi (.inl rfl)
  · exact heq ▸ .synthTempo i hi
  · rcases hcases with ⟨-, heq⟩ | ⟨w, -, -, heq⟩ | ⟨w, -, -, -, heq⟩ | ⟨w, -, -, -, -, heq⟩ | ⟨w, -, -, -, -, heq⟩ <;>
      rw [heq] at herror ⊢
    · exact .synthAfterAxis i _ d n hi haxis hcount (.inl rfl)
    · exact .synthAfterAxis i _ d n hi haxis hcount (.inr (.inl rfl))
    · exact .synthAfterAxis i _ d n hi haxis hcount (.inr (.inr rfl))
    · exact absurd rfl herror
    · exact absurd hs herror

theorem not_isSynth_oscInstr (w : Wave) (c : Nat) : ¬ isSynth (oscInstr w c) := by
  cases w <;> simp [isSynth, oscInstr]

/-- A command that ends with an error leaves what its error allows. -/
theorem exec_error {i : Instr} {s t : State} (hs : s.status.ecode = 0#4) (h : exec i s = .next t)
    (herror : t.status.ecode ≠ 0#4) : ErrorEffect s i t := by
  rcases exec_cases h with ⟨-, -, rfl⟩ | ⟨-, -, rfl⟩ | ⟨-, rfl⟩ | ⟨-, rfl⟩ | ⟨c, f, -, -, rfl⟩ | ⟨c, rfl, -, rfl⟩ |
    ⟨rfl, -, rfl⟩ | ⟨d, n, -, -, rfl⟩ | ⟨w, c, rfl, rfl⟩ | ⟨c, rfl, rfl⟩ | ⟨w, rfl, -, rfl⟩ | ⟨rfl, rfl⟩ |
    ⟨w, -, -, hstep⟩
  · exact absurd hs herror
  · exact absurd hs herror
  · exact absurd rfl herror
  · exact absurd rfl herror
  · exact absurd rfl herror
  · exact .plain _ _ _ (by simp [isSynth]) nofun fun hne => absurd rfl hne
  · exact .tquant
  · exact absurd rfl herror
  · exact oscCommand_error (not_isSynth_oscInstr w c) herror
  · exact oscCommand_error (by simp [isSynth]) herror
  · exact synthStart_error (isSynth_synthInstr w) hs herror
  · exact synthStart_error isSynth_synthSh3 hs herror
  · obtain ⟨f, -, -, -, rfl⟩ := synthStep_next hstep
    exact absurd (advanceSample_ecode (s := s.writePcm _ _) hs) herror

theorem eq_invalidTempo_of_code {e : BlockError} (h : e.code = 2#4) : e = .invalidTempo := by
  revert h
  cases e <;> decide

theorem not_isSynth_tquant : ¬ isSynth .tquant := by simp [isSynth]

/-- Settles O22: by where the error stands among the checks of its command. -/
theorem errorsArePrecise : Obligations.ErrorsArePrecise := by
  intro i s t hs h herror
  have hillegal : ∀ (u : State) (e : IllegalWord), decode u.eng.cw = .error e →
      engineStep u = .next { u with status := doneWith u.status 5#4, errinfo := 0#32 } :=
    fun u e hdecode => engineStep_error hdecode
  cases exec_error hs h herror with
  | plain i e info hi htempo hinfo =>
    exact ⟨rfl, fun hsynth => absurd hsynth hi, fun _ => ⟨rfl, rfl, rfl⟩, fun _ _ => rfl,
      fun hcode => absurd (eq_invalidTempo_of_code hcode) htempo, fun _ => ⟨rfl, rfl, rfl⟩,
      fun hsynth => absurd hsynth hi, fun hsynth => absurd hsynth hi,
      fun hcode => hinfo fun he => hcode (he ▸ rfl), fun _ => rfl, hillegal⟩
  | tquant =>
    exact ⟨rfl, fun hsynth => absurd hsynth not_isSynth_tquant, fun _ => ⟨rfl, rfl, rfl⟩, fun _ hi => absurd rfl hi,
      fun _ => ⟨rfl, rfl, rfl⟩, by simp, fun hsynth => absurd hsynth not_isSynth_tquant,
      fun hsynth => absurd hsynth not_isSynth_tquant, fun _ => rfl, fun _ => rfl, hillegal⟩
  | synthNotes i e info hi he =>
    refine ⟨rfl, fun _ => rfl, fun hn => absurd hi hn, fun hn => absurd hi hn, ?_, fun _ => ⟨rfl, rfl, rfl⟩, fun _ => ?_,
      fun _ => ?_, ?_, fun _ => rfl, hillegal⟩
    all_goals rcases he with rfl | ⟨rfl, hcount, rfl⟩ <;> simp [BlockError.code]
    exact fun hle => (hle.not_gt hcount).elim
  | synthTempo i hi =>
    exact ⟨rfl, fun _ => rfl, fun hn => absurd hi hn, fun hn => absurd hi hn, fun _ => ⟨rfl, rfl, rfl⟩, by simp, by simp,
      by simp, fun _ => rfl, fun _ => rfl, hillegal⟩
  | synthAfterAxis i e d n hi haxis hcount he =>
    have hnew : axis s.bpm = some (d, (BitVec.ofNat 32 n).toNat) := by rw [ofNat_toNat_of_axis haxis, haxis]
    refine ⟨rfl, fun _ => rfl, fun hn => absurd hi hn, fun hn => absurd hi hn, ?_, ?_, fun _ _ => ⟨hnew, rfl⟩,
      fun _ => ?_, fun _ => rfl, fun _ => rfl, hillegal⟩
    all_goals rcases he with rfl | rfl | rfl <;> simp [BlockError.code]
    omega

end Sys2Proof.Machine
end

section
/-! PROOFS. The host interface (spec/20_memory.md R52 to R57, spec/30_encoding.md R90,
spec/70_reset_and_hazards.md R220, R222, R230): writes while busy and idle, reads, and reset. -/

namespace Sys2Proof.Machine

/-! ### Command writes, refusals and reset -/

/-- Settles O31: the three cases of a write to `CMD`. -/
theorem commandWriteIsAcceptedWhenIdle : Obligations.CommandWriteIsAcceptedWhenIdle := by
  refine fun s w => ⟨fun hbusy => busEvent_write_cmd_of_busy w hbusy, fun hidle hzero => ?nop,
    fun hidle hne => busEvent_write_cmd_of_idle hidle hne⟩
  case nop =>
    rw [hzero, busEvent_write_cmd_nop, exec_nop_of_idle hidle]

theorem busEvent_read_of_aligned {a : Word} (s : State) (ha : a.toNat % 4 = 0) :
    busEvent (.read 4 a) s = .next (busRead a.toNat s) := by
  simp [busEvent, aligned, ha]

theorem busEvent_write_of_aligned {a : Word} (data : Word) (s : State) (ha : a.toNat % 4 = 0) :
    busEvent (.write 4 a data) s = busWrite a.toNat data s := by
  simp [busEvent, aligned, ha]

/-- Settles O41: the width is looked at before the address. -/
theorem accessOutsideTheContractIsRefused : Obligations.AccessOutsideTheContractIsRefused := by
  refine fun s width a data => ⟨fun hwidth => ⟨if_pos hwidth, if_pos hwidth⟩, fun halign => ?misaligned, rfl⟩
  case misaligned =>
    have ha : aligned a = false := decide_eq_false halign
    simp [busEvent, ha]

/-- Settles O42: a reset takes over the depths and the model's record, and nothing else. -/
theorem resetGivesTheStatedValues : Obligations.ResetGivesTheStatedValues := by
  have hreset : ResetRegisters State.reset := ⟨rfl, rfl, rfl, rfl, rfl, rfl, rfl, rfl, rfl, rfl, rfl, rfl, rfl⟩
  exact ⟨hreset, fun s => ⟨s.applyReset, rfl, hreset, rfl, rfl⟩⟩

/-- Settles O43: nothing is in flight and nothing is pending, so it is nobody's turn. -/
theorem nothingRunsAfterReset : Obligations.NothingRunsAfterReset := by
  have hstay (s : State) (hidle : s.status.busy = false) (hpending : s.pending = []) : step s = .next s :=
    step_of_turn_idle ((turn_eq_idle s).2 ⟨hidle, hpending⟩)
  exact ⟨hstay State.reset rfl rfl, hstay⟩

/-- Settles O40: a read goes on only inside the contract, and then adds its value to the record. -/
theorem readsHaveNoSideEffect : Obligations.ReadsHaveNoSideEffect := by
  intro s t width a h
  rcases busEvent_cases (.read width a) s with ⟨-, r, hev⟩ | ⟨b, -, -, hev⟩ | ⟨b, data, hw, -⟩ | ⟨hr, -⟩
  · exact absurd (h.symm.trans hev) nofun
  · cases h.symm.trans hev
    unfold busRead
    split
    · exact ⟨_, _, rfl⟩
    · exact ⟨_, s.freeCount, rfl⟩
  · cases hw
  · cases hr

/-! ### Writes while busy (R230) -/

/-- The offsets of `CMD` and of the RW registers. -/
def writableOffsets : List Nat := [0x000, 0x00C, 0x010, 0x014, 0x018, 0x01C, 0x020, 0x024, 0x028, 0x040, 0x044]

theorem regOffset_mem_writableOffsets (r : Reg) : regOffset r ∈ writableOffsets ↔ r.writable = true := by
  cases r <;> decide

theorem exists_regOffset_of_mem : ∀ a ∈ writableOffsets, a < 0x1000 ∧ (regAt a).isSome = true := by decide

/-- The model's locations and R28 agree on what the host can write. -/
theorem writableAddr_iff (s : State) (a : Nat) : writableAddr s a ↔ (locate s a).writable = true := by
  by_cases hlt : a < 0x1000
  · have hnseq : ¬ (0x1000 ≤ a ∧ a < 0x1000 + s.nseqDepth) := by omega
    have haddr : writableAddr s a ↔ a ∈ writableOffsets := or_iff_left hnseq
    rw [haddr]
    cases hr : regAt a with
    | some r =>
      rw [locate_of_regAt_eq_some s hlt hr, regAt_eq_some_iff.1 hr]
      exact regOffset_mem_writableOffsets r
    | none =>
      rw [locate_of_regAt_eq_none s hlt hr]
      refine ⟨fun hmem => ?_, nofun⟩
      have hsome := (exists_regOffset_of_mem a hmem).2
      rw [hr] at hsome
      cases hsome
  · have hmem : a ∉ writableOffsets := fun h => hlt (exists_regOffset_of_mem a h).1
    have haddr : writableAddr s a ↔ s.inNseq a = true := by
      rw [inNseq_iff]
      exact or_iff_right hmem
    rw [haddr, locate, if_neg hlt]
    by_cases hin : s.inNseq a = true
    · simp [hin, Location.writable]
    · by_cases hpcm : s.inPcm a = true <;> simp [hin, hpcm, Location.writable]

theorem busWrite_of_busy_of_writable {a : Nat} {s : State} (data : Word) (hbusy : s.status.busy = true)
    (hw : (locate s a).writable = true) : busWrite a data s = .next s.ignoreWrite := by
  rcases busWrite_cases a data s with ⟨-, h⟩ | ⟨hn, -⟩ | ⟨-, -, -, h⟩ | ⟨r, -, -, -, hidle, -⟩ | ⟨-, hidle, -⟩
  · rcases issueCommand_cases data s with ⟨-, hc⟩ | ⟨hidle, -⟩ | ⟨hidle, -⟩
    · exact h.trans hc
    all_goals exact (not_busy_and_idle hbusy hidle).elim
  · exact (not_busy_and_idle hw hn).elim
  · exact h
  all_goals exact (not_busy_and_idle hbusy hidle).elim

/-- Settles O32: by whether the location is writable. -/
theorem busyWritesOnlySetWbusy : Obligations.BusyWritesOnlySetWbusy := by
  intro s a data hbusy halign
  rw [writableAddr_iff]
  refine ⟨fun hw => ?_, fun hn => busEvent_write_of_not_writable data halign (eq_false_of_ne_true hn)⟩
  rw [busEvent_write_of_aligned data s halign]
  exact busWrite_of_busy_of_writable data hbusy hw

/-! ### Reads while idle -/

theorem readsAs_of_idle {s : State} {a : Word} (hidle : s.status.busy = false) (halign : a.toNat % 4 = 0) :
    readsAs s a (idleRead s a.toNat) := by
  rw [readsAs, busEvent_read_of_aligned s halign, busRead, hidle, if_neg Bool.false_ne_true]

theorem readsAs_of_regAt {s : State} {a : Word} {r : Reg} (hidle : s.status.busy = false)
    (hr : regAt a.toNat = some r) : readsAs s a (readReg r s) := by
  obtain ⟨hlt, halign⟩ := regAt_some_bounds hr
  have hread := readsAs_of_idle hidle halign
  rwa [idleRead, locate_of_regAt_eq_some s hlt hr] at hread

theorem status_word_toNat (st : Status) :
    st.word.toNat =
      st.ecode.toNat * 256 + st.axv.toNat * 8 + st.wbusy.toNat * 4 + st.done.toNat * 2 + st.busy.toNat := by
  have hflag (b : Bool) : (flagBit b).toNat = b.toNat := BitVec.toNat_ofBool b
  simp only [Status.word, toNat_append_eq_add, hflag, BitVec.toNat_ofNat]
  omega

/-- The flags of `STATUS`, bit by bit (R25). -/
theorem status_word_flags (st : Status) :
    st.word.getLsbD 0 = st.busy ∧ st.word.getLsbD 1 = st.done ∧ st.word.getLsbD 2 = st.wbusy ∧
      st.word.getLsbD 3 = st.axv := by
  simp only [Status.word, BitVec.getLsbD_append, flagBit]
  simp

/-- `ECODE` and the reserved bits around it (R25). -/
theorem status_word_ecode (st : Status) :
    st.word.extractLsb' 4 4 = 0#4 ∧ st.word.extractLsb' 8 4 = st.ecode ∧ st.word.extractLsb' 12 20 = 0#20 := by
  have hecode := st.ecode.isLt
  have hbusy := st.busy.toNat_le
  have hdone := st.done.toNat_le
  have hwbusy := st.wbusy.toNat_le
  have haxv := st.axv.toNat_le
  simp only [← BitVec.toNat_inj, BitVec.extractLsb'_toNat, status_word_toNat, Nat.shiftRight_eq_div_pow,
    BitVec.toNat_ofNat]
  omega

/-- `NCOUNT`, zero-extended (R32). -/
theorem ncount_setWidth (x : BitVec 13) : x.setWidth 32 = 0#19 ++ x := by
  apply BitVec.eq_of_toNat_eq
  have hx := x.isLt
  rw [toNat_append_eq_add, BitVec.toNat_setWidth, BitVec.toNat_ofNat]
  omega

/-! ### The halves of a binary64 register (R24) -/

@[simp] theorem lowHalf_withLowHalf (v : F64) (w : Word) : lowHalf (withLowHalf v w) = w := by
  apply BitVec.eq_of_toNat_eq
  have hw := w.isLt
  simp only [lowHalf, withLowHalf, BitVec.extractLsb'_toNat, toNat_append_eq_add, Nat.shiftRight_zero]
  omega

@[simp] theorem highHalf_withLowHalf (v : F64) (w : Word) : highHalf (withLowHalf v w) = highHalf v := by
  apply BitVec.eq_of_toNat_eq
  have hw := w.isLt
  simp only [highHalf, withLowHalf, BitVec.extractLsb'_toNat, toNat_append_eq_add, Nat.shiftRight_eq_div_pow]
  omega

@[simp] theorem highHalf_withHighHalf (v : F64) (w : Word) : highHalf (withHighHalf v w) = w := by
  apply BitVec.eq_of_toNat_eq
  have hw := w.isLt
  simp only [lowHalf, highHalf, withHighHalf, BitVec.extractLsb'_toNat, toNat_append_eq_add,
    Nat.shiftRight_eq_div_pow]
  omega

@[simp] theorem lowHalf_withHighHalf (v : F64) (w : Word) : lowHalf (withHighHalf v w) = lowHalf v := by
  apply BitVec.eq_of_toNat_eq
  simp only [lowHalf, withHighHalf, BitVec.extractLsb'_toNat, toNat_append_eq_add, Nat.shiftRight_zero]
  omega

/-! ### A register written and read back -/

/-- `NCOUNT` keeps bits [12:0] (R32). -/
theorem setWidth_setWidth_13 (w : Word) : (w.setWidth 13).setWidth 32 = w &&& 0x1FFF#32 := by
  apply BitVec.eq_of_toNat_eq
  have hmask : w.toNat &&& (2 ^ 13 - 1) = w.toNat % 2 ^ 13 := Nat.and_two_pow_sub_one_eq_mod _ 13
  rw [BitVec.toNat_and, BitVec.toNat_setWidth, BitVec.toNat_setWidth]
  refine Eq.trans ?_ hmask.symm
  omega

theorem readReg_writeReg_same {r : Reg} (hw : r.writable = true) (hcmd : r ≠ .cmd) (data : Word) (s : State) :
    readReg r (writeReg r data s) = if r = .ncount then data &&& 0x1FFF#32 else data := by
  cases r with
  | cmd => exact absurd rfl hcmd
  | ncount => exact setWidth_setWidth_13 data
  | kidx => rfl
  | bpmLo | dutyLo | widthLo | sampleLo => exact lowHalf_withLowHalf _ data
  | bpmHi | dutyHi | widthHi | sampleHi => exact highHalf_withHighHalf _ data
  | status | errinfo | nsamp | durLo | durHi | freqLo | freqHi | pcm | outlen | nseqCap | pcmCap => cases hw

/-- A write to one register leaves what the others read, `STATUS` apart. -/
theorem readReg_writeReg_other {r q : Reg} (hne : q ≠ r) (hstatus : q ≠ .status) (data : Word) (s : State) :
    readReg q (writeReg r data s) = readReg q s := by
  cases r with
  | ncount | kidx => cases q <;> first | rfl | exact absurd rfl hne
  | bpmLo | dutyLo | widthLo | sampleLo =>
    cases q <;> first | rfl | exact highHalf_withLowHalf _ data | exact absurd rfl hne | exact absurd rfl hstatus
  | bpmHi | dutyHi | widthHi | sampleHi =>
    cases q <;> first | rfl | exact lowHalf_withHighHalf _ data | exact absurd rfl hne | exact absurd rfl hstatus
  | cmd | status | errinfo | nsamp | durLo | durHi | freqLo | freqHi | pcm | outlen | nseqCap | pcmCap => rfl

theorem readByte_writeReg (r : Reg) (data : Word) (s : State) (a : Nat) :
    (writeReg r data s).readByte a = s.readByte a := by
  cases r <;> rfl

/-- Settles O34: every register reads its field, and a write reaches one field. -/
theorem writtenRegisterReadsBack : Obligations.WrittenRegisterReadsBack := by
  refine ⟨fun s hidle => ?reads, fun s r a data hidle hr hw hcmd => ?written⟩
  case reads =>
    have hread {a : Word} (r : Reg) (hr : regAt a.toNat = some r) : readsAs s a (readReg r s) := readsAs_of_regAt hidle hr
    obtain ⟨hbusy, hdone, hwbusy, haxv⟩ := status_word_flags s.status
    have hncount := hread (a := 0x00C#32) .ncount rfl
    rw [readReg, ncount_setWidth] at hncount
    exact ⟨hread .cmd rfl,
      ⟨s.status.word, hread .status rfl, hbusy.trans hidle, hdone, hwbusy, haxv, status_word_ecode s.status⟩,
      hread .errinfo rfl, hncount, hread .bpmLo rfl, hread .bpmHi rfl, hread .dutyLo rfl, hread .dutyHi rfl,
      hread .widthLo rfl, hread .widthHi rfl, hread .kidx rfl, hread .nsamp rfl, hread .durLo rfl, hread .durHi rfl,
      hread .freqLo rfl, hread .freqHi rfl, hread .sampleLo rfl, hread .sampleHi rfl, hread .pcm rfl,
      hread .outlen rfl, hread .nseqCap rfl, hread .pcmCap rfl⟩
  case written =>
    obtain ⟨hlt, halign⟩ := regAt_some_bounds hr
    have hidle' : (writeReg r data s).status.busy = false := by
      rw [writeReg_status]
      exact hidle
    refine ⟨writeReg r data s, busEvent_write_of_regAt data halign hlt hr hw hcmd hidle, ?_,
      fun b q hq hne hstatus => ⟨readReg q s, readsAs_of_regAt hidle hq, ?_⟩, writeReg_status r data s,
      readByte_writeReg r data s⟩
    · rw [← readReg_writeReg_same hw hcmd data s]
      exact readsAs_of_regAt hidle' hr
    · rw [← readReg_writeReg_other hne hstatus data s]
      exact readsAs_of_regAt hidle' hq

end Sys2Proof.Machine
end

section
/-! PROOFS. Words of `NSEQ` and `PCMBUF` on the bus (spec/20_memory.md R55, R57(b)): which byte of a word stands at
which address, and what is dropped or reads 0 beyond a depth. -/

namespace Sys2Proof.Machine

/-! ### A word and its bytes -/

/-- Byte `i` of a bus word is the byte at the `i`-th address. -/
theorem extractLsb'_busWord (s : State) (a : Nat) {i : Nat} (hi : i < 4) :
    (s.busWord a).extractLsb' (8 * i) 8 = s.busByte (a + i) := by
  have h0 := (s.busByte a).isLt
  have h1 := (s.busByte (a + 1)).isLt
  have h2 := (s.busByte (a + 2)).isLt
  have h3 := (s.busByte (a + 3)).isLt
  apply BitVec.eq_of_toNat_eq
  simp only [State.busWord, BitVec.extractLsb'_toNat, toNat_append_eq_add, Nat.shiftRight_eq_div_pow]
  obtain rfl | hpos := Nat.eq_zero_or_pos i
  · simp only [Nat.mul_zero, Nat.add_zero]
    omega
  · interval_cases i <;> omega

/-! ### Writing a word to `NSEQ` -/

theorem inNseq_congr {s t : State} (h : t.nseqCap = s.nseqCap) (a : Nat) : t.inNseq a = s.inNseq a := by
  rw [Bool.eq_iff_iff, inNseq_iff, inNseq_iff, h]

theorem writeNseqByte_nseqCap (s : State) (a : Nat) (b : Byte) : (s.writeNseqByte a b).nseqCap = s.nseqCap := by
  unfold State.writeNseqByte
  split <;> rfl

theorem inNseq_writeNseqByte (s : State) (a c : Nat) (b : Byte) : (s.writeNseqByte a b).inNseq c = s.inNseq c :=
  inNseq_congr (writeNseqByte_nseqCap s a b) c

theorem readByte_writeNseqByte_other (s : State) {a c : Nat} (b : Byte) (h : c ≠ a) :
    (s.writeNseqByte a b).readByte c = s.readByte c := by
  unfold State.writeNseqByte
  split
  next => exact readByte_writeByte_other s b h
  next => rfl

theorem readByte_writeNseqByte_same (s : State) {a : Nat} (b : Byte) (h : s.inNseq a = true) :
    (s.writeNseqByte a b).readByte a = b := by
  rw [State.writeNseqByte, if_pos h, readByte_writeByte_same]

theorem readByte_writeNseqByte_dropped (s : State) {a : Nat} (b : Byte) (h : s.inNseq a = false) (c : Nat) :
    (s.writeNseqByte a b).readByte c = s.readByte c := by
  rw [State.writeNseqByte, if_neg (ne_true_of_eq_false h)]

/-- Each byte of the word goes to its own address. -/
theorem readByte_writeNseqWord_same (s : State) (a : Nat) (data : Word) {i : Nat} (hi : i < 4)
    (hin : s.inNseq (a + i) = true) : (s.writeNseqWord a data).readByte (a + i) = data.extractLsb' (8 * i) 8 := by
  unfold State.writeNseqWord
  obtain rfl | hpos := Nat.eq_zero_or_pos i
  · rw [Nat.add_zero] at hin ⊢
    simp [readByte_writeNseqByte_other, readByte_writeNseqByte_same, hin]
  · interval_cases i <;>
      simp [readByte_writeNseqByte_other, readByte_writeNseqByte_same, inNseq_writeNseqByte, hin]

/-- No other address is written. -/
theorem readByte_writeNseqWord_other (s : State) {a c : Nat} (data : Word)
    (h : c < a ∨ a + 4 ≤ c ∨ s.inNseq c = false) :
    (s.writeNseqWord a data).readByte c = s.readByte c := by
  have hbyte (t : State) (ht : t.nseqCap = s.nseqCap) (x : Nat) (b : Byte) (hx : a ≤ x ∧ x < a + 4) :
      (t.writeNseqByte x b).readByte c = t.readByte c := by
    by_cases hc : c = x
    · subst hc
      have hout : t.inNseq c = false := by
        rw [inNseq_congr ht]
        exact (h.resolve_left (by omega)).resolve_left (by omega)
      exact readByte_writeNseqByte_dropped t b hout c
    · exact readByte_writeNseqByte_other t b hc
  unfold State.writeNseqWord
  rw [hbyte _ (by simp only [writeNseqByte_nseqCap]) _ _ (by omega),
    hbyte _ (by simp only [writeNseqByte_nseqCap]) _ _ (by omega),
    hbyte _ (by simp only [writeNseqByte_nseqCap]) _ _ (by omega), hbyte s rfl _ _ (by omega)]

/-! ### Bytes on the bus -/

theorem inNseq_eq_false_of_le {s : State} {a : Nat} (h : 0x1000 + s.nseqDepth ≤ a) : s.inNseq a = false := by
  refine eq_false_of_ne_true fun hin => ?_
  have hlt : a < 0x1000 + s.nseqDepth := ((inNseq_iff s a).1 hin).2
  omega

theorem inPcm_eq_false_of_lt {s : State} {a : Nat} (h : a < 0x01000000) : s.inPcm a = false := by
  refine eq_false_of_ne_true fun hin => ?_
  have hle := ((inPcm_iff s a).1 hin).1
  omega

theorem busByte_of_inNseq {s : State} {a : Nat} (h : s.inNseq a = true) : s.busByte a = s.readByte a := by
  rw [State.busByte, h, Bool.true_or, if_pos rfl]

theorem busByte_of_inPcm {s : State} {a : Nat} (h : s.inPcm a = true) : s.busByte a = s.readByte a := by
  rw [State.busByte, h, Bool.or_true, if_pos rfl]

theorem busByte_of_outside {s : State} {a : Nat} (hnseq : s.inNseq a = false) (hpcm : s.inPcm a = false) :
    s.busByte a = 0#8 := by
  rw [State.busByte, hnseq, hpcm, Bool.or_false, if_neg Bool.false_ne_true]

/-- A byte of an `NSEQ` word, 0 from the depth on (R55). -/
theorem busByte_near_nseq {s : State} {a : Nat} (hlow : 0x1000 ≤ a) (hhigh : a < 0x01000000) :
    s.busByte a = if a < 0x1000 + s.nseqDepth then s.readByte a else 0#8 := by
  split
  next hlt => exact busByte_of_inNseq ((inNseq_iff s a).2 ⟨hlow, hlt⟩)
  next hge => exact busByte_of_outside (inNseq_eq_false_of_le (Nat.not_lt.1 hge)) (inPcm_eq_false_of_lt hhigh)

theorem readsAs_nseqWord {s : State} {a : Word} (hidle : s.status.busy = false) (halign : a.toNat % 4 = 0)
    (hin : s.inNseq a.toNat = true) : readsAs s a (s.busWord a.toNat) := by
  have hread := readsAs_of_idle hidle halign
  rwa [idleRead, locate_of_inNseq hin] at hread

theorem readsAs_pcmWord {s : State} {a : Word} (hidle : s.status.busy = false) (halign : a.toNat % 4 = 0)
    (hn : s.nseqDepth ≤ 4096) (hin : s.inPcm a.toNat = true) : readsAs s a (s.busWord a.toNat) := by
  have hread := readsAs_of_idle hidle halign
  rwa [idleRead, locate_of_inPcm hn hin] at hread

theorem busWrite_nseqWord {s : State} {a : Nat} (data : Word) (hidle : s.status.busy = false)
    (hin : s.inNseq a = true) : busWrite a data s = .next (s.writeNseqWord a data) := by
  have hl := locate_of_inNseq hin
  rcases busWrite_cases a data s with ⟨hl', -⟩ | ⟨hn, -⟩ | ⟨-, -, hbusy, -⟩ | ⟨r, hl', -⟩ | ⟨-, -, h⟩
  · rw [hl] at hl'; cases hl'
  · rw [hl] at hn; cases hn
  · exact (not_busy_and_idle hbusy hidle).elim
  · rw [hl] at hl'; cases hl'
  · exact h

/-- Settles O35: byte by byte, each at its own address, before and after the write. -/
theorem nseqWriteStoresLittleEndianBytes : Obligations.NseqWriteStoresLittleEndianBytes := by
  intro s a data hidle hdepth halign hlow hhigh
  have hin : s.inNseq a.toNat = true := (inNseq_iff s _).2 ⟨hlow, hhigh⟩
  have hcap : (s.writeNseqWord a.toNat data).nseqCap = s.nseqCap := by rw [writeNseqWord_writes]
  have hdepth' : (s.writeNseqWord a.toNat data).nseqDepth = s.nseqDepth := congrArg BitVec.toNat hcap
  have hidle' : (s.writeNseqWord a.toNat data).status.busy = false := by rw [writeNseqWord_status]; exact hidle
  have hbyte (i : Nat) (hi : i < 4) (h : a.toNat + i < 0x1000 + s.nseqDepth) :
      (s.writeNseqWord a.toNat data).readByte (a.toNat + i) = data.extractLsb' (8 * i) 8 :=
    readByte_writeNseqWord_same s _ data hi ((inNseq_iff s _).2 ⟨by omega, h⟩)
  refine ⟨_, (busEvent_write_of_aligned data s halign).trans (busWrite_nseqWord data hidle hin), hbyte,
    fun b hb => readByte_writeNseqWord_other s data (hb.imp_right (Or.imp_right inNseq_eq_false_of_le)),
    writeNseqWord_writes s _ data, ⟨_, readsAs_nseqWord hidle halign hin, fun i hi => ?before⟩,
    ⟨_, readsAs_nseqWord hidle' halign ((inNseq_congr hcap _).trans hin), fun i hi => ?after⟩⟩
  case before => rw [extractLsb'_busWord s _ hi, busByte_near_nseq (by omega) (by omega)]
  case after =>
    rw [extractLsb'_busWord _ _ hi, busByte_near_nseq (by omega) (by omega), hdepth']
    split
    next hlt => exact hbyte i hi hlt
    next => rfl

/-! ### A word of `PCMBUF` -/

/-- Two samples, the lower one in the low half (R57(b)). -/
theorem busWord_eq_append (s : State) (a : Nat) :
    s.busWord a = (s.busByte (a + 3) ++ s.busByte (a + 2)) ++ (s.busByte (a + 1) ++ s.busByte a) := by
  apply BitVec.eq_of_toNat_eq
  simp only [State.busWord, toNat_append_eq_add]
  omega

theorem pcmSample_of_addr (s : State) {n a : Nat} (h : a = 0x01000000 + 2 * n) :
    s.pcmSample n = s.readByte (a + 1) ++ s.readByte a := by
  subst h
  rfl

/-- A sample on the bus, 0 from the depth on. -/
theorem busByte_append_of_sample {s : State} {n a : Nat} (hdepth : s.nseqDepth ≤ 4096) (h : a = 0x01000000 + 2 * n) :
    s.busByte (a + 1) ++ s.busByte a = if n < s.pcmDepth then s.pcmSample n else 0#16 := by
  split
  next hlt =>
    have hn : n < s.pcmCap.toNat := hlt
    rw [pcmSample_of_addr s h, busByte_of_inPcm ((inPcm_iff s _).2 ⟨by omega, by omega⟩),
      busByte_of_inPcm ((inPcm_iff s _).2 ⟨by omega, by omega⟩)]
  next hge =>
    have hout (b : Nat) (hb : a ≤ b) : s.busByte b = 0#8 := by
      refine busByte_of_outside (inNseq_eq_false_of_le (by omega)) (eq_false_of_ne_true fun hin => hge ?_)
      have hlt := ((inPcm_iff s b).1 hin).2
      show n < s.pcmCap.toNat
      omega
    rw [hout _ (by omega), hout a le_rfl]
    rfl

/-- Settles O36: the four bytes of the word are two samples. -/
theorem pcmWordReadGivesTwoSamples : Obligations.PcmWordReadGivesTwoSamples := by
  intro s a m hidle hdepth ha hm
  have hm' : 2 * m < s.pcmCap.toNat := hm
  have hin : s.inPcm a.toNat = true := (inPcm_iff s _).2 ⟨by omega, by omega⟩
  have hword : s.busWord a.toNat =
      (if 2 * m + 1 < s.pcmDepth then s.pcmSample (2 * m + 1) else 0#16) ++ s.pcmSample (2 * m) := by
    rw [busWord_eq_append, busByte_append_of_sample (n := 2 * m) (a := a.toNat) hdepth (by omega), if_pos hm,
      ← busByte_append_of_sample (n := 2 * m + 1) (a := a.toNat + 2) hdepth (by omega)]
  rw [← hword]
  exact readsAs_pcmWord hidle (by omega) hdepth hin

end Sys2Proof.Machine
end

section
/-! PROOFS. The four operations round to nearest, ties to even (spec/00_scope.md R10): first `roundMag` on magnitudes
in units of 2^-1074, then signs, then the operations. -/

namespace Sys2Proof.Machine

/-! ### roundMag is nearest (R10) -/

/-- The shift of `roundMag`: values of this size are a multiple of 2^shift units apart. -/
def roundShift (num den : Nat) : Nat := Nat.log2 (num / den) - 52

/-- The mantissa that `roundMag` packs. -/
def roundMantissa (num den : Nat) : Nat := roundNearestEven num (den * 2 ^ roundShift num den)

theorem roundMag_eq (num den : Nat) :
    roundMag num den = min (roundShift num den * 2 ^ 52 + roundMantissa num den) infMag := rfl

theorem roundMantissa_le (num : Nat) {den : Nat} (hd : 0 < den) : roundMantissa num den ≤ 2 ^ 53 := by
  have hpos : 0 < den * 2 ^ roundShift num den := Nat.mul_pos hd (Nat.two_pow_pos _)
  have hmono := roundNearestEven_mono (n2 := 2 ^ 53 * (den * 2 ^ roundShift num den)) hpos hpos
    (Nat.mul_le_mul_right _ (roundMag_shift num hd).1.le)
  rwa [roundNearestEven_exact _ hpos] at hmono

theorem le_roundMantissa {num den : Nat} (hd : 0 < den) (hs : 0 < roundShift num den) :
    2 ^ 52 ≤ roundMantissa num den := by
  have hpos : 0 < den * 2 ^ roundShift num den := Nat.mul_pos hd (Nat.two_pow_pos _)
  have hmono := roundNearestEven_mono (n1 := 2 ^ 52 * (den * 2 ^ roundShift num den)) hpos hpos
    (Nat.mul_le_mul_right _ ((roundMag_shift num hd).2 hs))
  rwa [roundNearestEven_exact _ hpos] at hmono

/-- Before the overflow check, the packed magnitude is the mantissa shifted, also where it has carried. -/
theorem unitsOfMag_shift_add_mantissa (num : Nat) {den : Nat} (hd : 0 < den) :
    unitsOfMag (roundShift num den * 2 ^ 52 + roundMantissa num den) =
      roundMantissa num den * 2 ^ roundShift num den := by
  have hle := roundMantissa_le num hd
  have hge := le_roundMantissa (num := num) hd
  generalize roundMantissa num den = q at *
  generalize roundShift num den = s at *
  rcases Nat.lt_or_ge q (2 ^ 52) with hsub | hnormal
  · obtain rfl : s = 0 := by omega
    rw [Nat.zero_mul, Nat.zero_add, unitsOfMag_subnormal hsub, pow_zero, Nat.mul_one]
  · rcases Nat.lt_or_eq_of_le hle with hlt | rfl
    · exact unitsOfMag_mantissa hnormal hlt
    · rw [show s * 2 ^ 52 + 2 ^ 53 = (s + 1) * 2 ^ 52 + 2 ^ 52 by omega,
        unitsOfMag_mantissa le_rfl (by norm_num), Nat.pow_succ]
      omega

/-- A magnitude is a multiple of 2^s units, or lies below the values that are 2^s units apart. -/
theorem two_pow_dvd_or_unitsOfMag_lt (m s : Nat) : 2 ^ s ∣ unitsOfMag m ∨ unitsOfMag m < 2 ^ 52 * 2 ^ s := by
  rcases Nat.lt_or_ge m (s * 2 ^ 52 + 2 ^ 52) with hlt | hge
  · refine .inr ?_
    rw [← unitsOfMag_mantissa (f := 2 ^ 52) (e := s) le_rfl (by norm_num)]
    exact unitsOfMag_strictMono hlt
  · refine .inl ?_
    rw [unitsOfMag_normal (by omega)]
    exact Dvd.dvd.mul_left (pow_dvd_pow 2 (by omega)) _

/-- The mantissa's distance from the exact quotient, in units of the last place. -/
theorem roundMantissa_close (num : Nat) {den : Nat} (hd : 0 < den) :
    2 * |(roundMantissa num den * 2 ^ roundShift num den : ℚ) - num / den| ≤ 2 ^ roundShift num den ∧
      (2 * |(roundMantissa num den * 2 ^ roundShift num den : ℚ) - num / den| = 2 ^ roundShift num den →
        roundMantissa num den % 2 = 0) := by
  have hpos : 0 < den * 2 ^ roundShift num den := Nat.mul_pos hd (Nat.two_pow_pos _)
  obtain ⟨hclose, htie⟩ := roundNearestEven_abs_sub num hpos
  rw [← roundMantissa] at hclose htie
  have hdq : (0 : ℚ) < den := Nat.cast_pos.2 hd
  have hscale : (den : ℚ) * |(roundMantissa num den * 2 ^ roundShift num den : ℚ) - num / den| =
      ((|(num : Int) - roundMantissa num den * ((den * 2 ^ roundShift num den : Nat) : Int)| : Int) : ℚ) := by
    rw [← abs_of_pos hdq, ← abs_mul, abs_of_pos hdq, mul_sub, mul_div_cancel₀ _ hdq.ne', abs_sub_comm]
    push_cast
    ring_nf
  rw [← mul_le_mul_iff_right₀ hdq, ← mul_right_inj' hdq.ne', mul_left_comm, hscale]
  exact ⟨by exact_mod_cast hclose, fun h => htie (by exact_mod_cast h)⟩

/-- Half a unit of the last place below 2^(54 + e), for mantissas of 53 bits shifted by e + 1. Irreducible, so that
nothing evaluates the power. -/
@[irreducible] def halfUnitBelow (e : Nat) : Nat := (2 ^ 54 - 1) * 2 ^ e

/-- The overflow limit in units: half a unit of the last place above the largest finite magnitude. -/
abbrev overflowUnits : Nat := halfUnitBelow 2044

/-- The shift is the exponent of the quotient. -/
theorem roundShift_le {num den e : Nat} (hd : 0 < den) (h : num < 2 ^ (53 + e) * den) : roundShift num den ≤ e := by
  by_contra hlt
  have hlow := (roundMag_shift num hd).2 (show 0 < roundShift num den by omega)
  have hpow : 2 ^ (53 + e) ≤ 2 ^ 52 * 2 ^ roundShift num den := by
    rw [← pow_add]
    exact Nat.pow_le_pow_right two_pos (by omega)
  have hle : 2 ^ (53 + e) * den ≤ num :=
    calc 2 ^ (53 + e) * den ≤ 2 ^ 52 * 2 ^ roundShift num den * den := Nat.mul_le_mul_right _ hpow
      _ = 2 ^ 52 * (den * 2 ^ roundShift num den) := by ring
      _ ≤ num := hlow
  omega

theorem le_roundShift {num den e : Nat} (hd : 0 < den) (h : 2 ^ (52 + e) * den ≤ num) : e ≤ roundShift num den := by
  by_contra hlt
  have hhigh : num < 2 ^ 53 * (den * 2 ^ roundShift num den) := (roundMag_shift num hd).1
  have hpow : 2 ^ 53 * 2 ^ roundShift num den ≤ 2 ^ (52 + e) := by
    rw [← pow_add]
    exact Nat.pow_le_pow_right two_pos (by omega)
  have hle : num < 2 ^ (52 + e) * den :=
    calc num < 2 ^ 53 * (den * 2 ^ roundShift num den) := hhigh
      _ = 2 ^ 53 * 2 ^ roundShift num den * den := by ring
      _ ≤ _ := Nat.mul_le_mul_right _ hpow
  omega

theorem halfUnitBelow_mul (e den : Nat) : halfUnitBelow e * den = (2 ^ 54 - 1) * (den * 2 ^ e) := by
  rw [halfUnitBelow]
  ring

theorem halfUnitBelow_bounds (e : Nat) :
    2 ^ (52 + (e + 1)) ≤ halfUnitBelow e ∧ halfUnitBelow e ≤ 2 ^ (53 + (e + 1)) := by
  rw [halfUnitBelow, show 52 + (e + 1) = 53 + e by omega, show 53 + (e + 1) = 54 + e by omega, pow_add, pow_add]
  exact ⟨Nat.mul_le_mul_right _ (by norm_num), Nat.mul_le_mul_right _ (by norm_num)⟩

/-- The mantissa carries exactly from half a unit below 2^53 on: there is a tie, and 2^53 - 1 is odd. -/
theorem roundMantissa_lt_iff {num den e : Nat} (hd : 0 < den) (hs : roundShift num den = e + 1) :
    roundMantissa num den < 2 ^ 53 ↔ num < halfUnitBelow e * den := by
  have hpos : 0 < den * 2 ^ roundShift num den := Nat.mul_pos hd (Nat.two_pow_pos _)
  obtain ⟨hlow, hhigh⟩ := roundNearestEven_close num hpos
  have htie := roundNearestEven_tie num hpos
  rw [← roundMantissa, hs] at hlow hhigh htie
  generalize roundMantissa num den = q at *
  have hunit : den * 2 ^ (e + 1) = 2 * (den * 2 ^ e) := by rw [pow_succ]; ring
  have hpos' : 0 < den * 2 ^ e := Nat.mul_pos hd (Nat.two_pow_pos _)
  rw [hunit] at hlow hhigh htie
  rw [halfUnitBelow_mul]
  generalize den * 2 ^ e = u at *
  constructor
  · intro hq
    by_contra hge
    have hmul : q * (2 * u) ≤ (2 ^ 53 - 1) * (2 * u) := Nat.mul_le_mul_right _ (by omega)
    have heven := htie (.inl (by omega))
    have hq' : q ≤ 2 ^ 53 - 2 := by omega
    have hmul' : q * (2 * u) ≤ (2 ^ 53 - 2) * (2 * u) := Nat.mul_le_mul_right _ hq'
    omega
  · intro hlt
    by_contra hge
    have hmul : 2 ^ 53 * (2 * u) ≤ q * (2 * u) := Nat.mul_le_mul_right _ (by omega)
    omega

/-- The packed magnitude is finite exactly below the overflow limit. -/
theorem shift_add_mantissa_lt_infMag_iff {num den : Nat} (hd : 0 < den) :
    roundShift num den * 2 ^ 52 + roundMantissa num den < infMag ↔ num < overflowUnits * den := by
  have hle := roundMantissa_le num hd
  have hge := le_roundMantissa (num := num) hd
  have hinf := infMag_eq
  rcases Nat.lt_trichotomy (roundShift num den) 2045 with hs | hs | hs
  · have hnum : num < overflowUnits * den := by
      by_contra hn
      have hpow := Nat.mul_le_mul_right den (halfUnitBelow_bounds 2044).1
      have := le_roundShift hd (hpow.trans (Nat.not_lt.1 hn))
      omega
    exact ⟨fun _ => hnum, fun _ => by omega⟩
  · rw [← roundMantissa_lt_iff hd hs, hs]
    omega
  · have hnum : ¬ num < overflowUnits * den := fun hn => by
      have hpow := Nat.mul_le_mul_right den (halfUnitBelow_bounds 2044).2
      have := roundShift_le hd (hn.trans_le hpow)
      omega
    refine ⟨fun h => absurd h (by omega), fun h => absurd h hnum⟩

section
variable {num den : Nat} (hd : 0 < den)
include hd

theorem roundMag_lt_infMag_iff : roundMag num den < infMag ↔ num < overflowUnits * den := by
  rw [roundMag_eq, ← shift_add_mantissa_lt_infMag_iff hd]
  omega

theorem roundMag_of_overflow (h : overflowUnits * den ≤ num) : roundMag num den = infMag :=
  le_antisymm (roundMag_le_infMag num den) (Nat.not_lt.1 fun hlt => ((roundMag_lt_infMag_iff hd).1 hlt).not_ge h)

variable (h : num < overflowUnits * den)
include h

theorem roundMag_of_no_overflow : roundMag num den = roundShift num den * 2 ^ 52 + roundMantissa num den := by
  rw [roundMag_eq]
  exact min_eq_left ((shift_add_mantissa_lt_infMag_iff hd).2 h).le

/-- Below the overflow limit the rounded magnitude is within half a unit of the last place. -/
theorem roundMag_close :
    2 * |(unitsOfMag (roundMag num den) : ℚ) - num / den| ≤ 2 ^ roundShift num den ∧
      (2 * |(unitsOfMag (roundMag num den) : ℚ) - num / den| = 2 ^ roundShift num den → roundMag num den % 2 = 0) := by
  obtain ⟨hclose, htie⟩ := roundMantissa_close num hd
  rw [roundMag_of_no_overflow hd h, unitsOfMag_shift_add_mantissa num hd]
  push_cast
  exact ⟨hclose, fun heq => by have := htie heq; omega⟩

omit h in
theorem le_quotient (hs : 0 < roundShift num den) : (2 ^ 52 * 2 ^ roundShift num den : ℚ) ≤ num / den := by
  have hdq : (0 : ℚ) < den := Nat.cast_pos.2 hd
  have hlow : 2 ^ 52 * (den * 2 ^ roundShift num den) ≤ num := (roundMag_shift num hd).2 hs
  rw [le_div_iff₀ hdq]
  calc (2 ^ 52 * 2 ^ roundShift num den : ℚ) * den = ((2 ^ 52 * (den * 2 ^ roundShift num den) : Nat) : ℚ) := by
        push_cast; ring
    _ ≤ num := Nat.cast_le.2 hlow

/-- No multiple of the unit of the last place is nearer to the exact quotient. -/
theorem roundMag_nearest_multiple (k : Nat) :
    |(unitsOfMag (roundMag num den) : ℚ) - num / den| ≤ |((k * 2 ^ roundShift num den : Nat) : ℚ) - num / den| ∧
      (|(unitsOfMag (roundMag num den) : ℚ) - num / den| = |((k * 2 ^ roundShift num den : Nat) : ℚ) - num / den| →
        k * 2 ^ roundShift num den = unitsOfMag (roundMag num den) ∨ roundMag num den % 2 = 0) := by
  obtain ⟨hclose, htie⟩ := roundMag_close hd h
  have hunits : unitsOfMag (roundMag num den) = roundMantissa num den * 2 ^ roundShift num den := by
    rw [roundMag_of_no_overflow hd h, unitsOfMag_shift_add_mantissa num hd]
  by_cases hk : k = roundMantissa num den
  · rw [hk, ← hunits]
    exact ⟨le_rfl, fun _ => .inl rfl⟩
  · have hapart : (2 ^ roundShift num den : ℚ) ≤
        |((k * 2 ^ roundShift num den : Nat) : ℚ) - (unitsOfMag (roundMag num den) : ℚ)| := by
      have hdiff : (1 : ℚ) ≤ |(k : ℚ) - roundMantissa num den| := by
        have hint : (1 : Int) ≤ |(k : Int) - roundMantissa num den| := Int.one_le_abs (by omega)
        exact_mod_cast hint
      rw [hunits]
      push_cast
      rw [← sub_mul, abs_mul, abs_of_pos (a := (2 : ℚ) ^ roundShift num den) (by positivity)]
      exact le_mul_of_one_le_left (by positivity) hdiff
    have htriangle := abs_sub_le ((k * 2 ^ roundShift num den : Nat) : ℚ) (num / den)
      (unitsOfMag (roundMag num den) : ℚ)
    rw [abs_sub_comm ((num : ℚ) / den)] at htriangle
    exact ⟨by linarith, fun heq => .inr (htie (by linarith))⟩

/-- No magnitude is nearer to the exact quotient, and if one is as near, the rounded one is even. -/
theorem roundMag_nearest (m : Nat) :
    |(unitsOfMag (roundMag num den) : ℚ) - num / den| ≤ |(unitsOfMag m : ℚ) - num / den| ∧
      (|(unitsOfMag (roundMag num den) : ℚ) - num / den| = |(unitsOfMag m : ℚ) - num / den| →
        unitsOfMag m = unitsOfMag (roundMag num den) ∨ roundMag num den % 2 = 0) := by
  rcases two_pow_dvd_or_unitsOfMag_lt m (roundShift num den) with ⟨k, hk⟩ | hlt
  · rw [hk, Nat.mul_comm]
    exact roundMag_nearest_multiple hd h k
  · rcases Nat.eq_zero_or_pos (roundShift num den) with hs | hs
    · have hmultiple := roundMag_nearest_multiple hd h (unitsOfMag m)
      rwa [hs, pow_zero, Nat.mul_one] at hmultiple
    · obtain ⟨hle, -⟩ := roundMag_nearest_multiple hd h (2 ^ 52)
      have hquotient := le_quotient hd hs
      have hlt' : (unitsOfMag m : ℚ) < ((2 ^ 52 * 2 ^ roundShift num den : Nat) : ℚ) := Nat.cast_lt.2 hlt
      have hcast : ((2 ^ 52 * 2 ^ roundShift num den : Nat) : ℚ) = 2 ^ 52 * 2 ^ roundShift num den := by push_cast; rfl
      rw [hcast] at hle hlt'
      rw [abs_of_nonpos (a := (2 ^ 52 * 2 ^ roundShift num den : ℚ) - num / den) (by linarith)] at hle
      rw [abs_of_neg (a := (unitsOfMag m : ℚ) - num / den) (by linarith)]
      exact ⟨by linarith, fun heq => by linarith⟩

end

/-! ### Signs: a rounded value (R10) -/

/-- 1.0 in units, as a rational number. Irreducible, so that nothing evaluates the power. -/
@[irreducible] def unitScale : ℚ := 2 ^ 1074

theorem unitScale_pos : 0 < unitScale := by
  rw [unitScale]
  exact pow_pos two_pos _

theorem unitsPerOne_cast : (unitsPerOne : ℚ) = unitScale := by
  rw [unitScale]
  exact cast_two_pow 1074

/-- The sign as a factor. -/
def signFactor (neg : Bool) : ℚ := if neg then -1 else 1

theorem abs_signFactor (neg : Bool) : |signFactor neg| = 1 := by
  cases neg <;> simp [signFactor]

theorem signFactor_of_ne {a b : Bool} (h : a ≠ b) : signFactor b = -signFactor a := by
  cases a <;> cases b <;> simp_all [signFactor]

theorem f64Int_eq_signFactor (a : F64) : (f64Int a : ℚ) = signFactor (f64Neg a) * f64Units a := by
  cases h : f64Neg a with
  | false => rw [f64Int_of_not_neg h, signFactor, if_neg Bool.false_ne_true, one_mul, Int.cast_natCast]
  | true => rw [f64Int_of_neg h, signFactor, if_pos rfl, neg_one_mul, Int.cast_neg, Int.cast_natCast]

theorem f64Rat_eq_div_unitScale (a : F64) : f64Rat a = f64Int a / unitScale := by
  rw [f64Rat_eq_div, unitsPerOne_cast]

theorem f64Rat_eq_signFactor (a : F64) : f64Rat a = signFactor (f64Neg a) * (f64Units a / unitScale) := by
  rw [f64Rat_eq_div_unitScale, f64Int_eq_signFactor, mul_div_assoc]

/-- The last bit of a value is that of its magnitude. -/
theorem getLsbD_zero_packF64 (neg : Bool) {m : Nat} (h : m % 2 = 0) : (packF64 neg m).getLsbD 0 = false := by
  rw [packF64, BitVec.getLsbD_ofNat]
  cases neg <;> simp [Nat.testBit_zero] <;> omega

/-- The exact value that `roundMag num den` rounds, with its sign. -/
def exactValue (neg : Bool) (num den : Nat) : ℚ := signFactor neg * (num / den / unitScale)

theorem abs_exactValue (neg : Bool) (num den : Nat) : |exactValue neg num den| = num / den / unitScale := by
  have hone := unitScale_pos
  rw [exactValue, abs_mul, abs_signFactor, one_mul, abs_of_nonneg (by positivity)]

/-- The sign of an exact value that is not 0. -/
theorem exactValue_sign {neg : Bool} {num den : Nat} (hne : exactValue neg num den ≠ 0) :
    decide (exactValue neg num den < 0) = neg := by
  have hone := unitScale_pos
  have hpos : (0 : ℚ) < num / den / unitScale :=
    lt_of_le_of_ne (by positivity) fun hzero => hne (by rw [exactValue, ← hzero, mul_zero])
  cases neg with
  | false => rw [exactValue, signFactor, if_neg Bool.false_ne_true, one_mul, decide_eq_false hpos.not_gt]
  | true => rw [exactValue, signFactor, if_pos rfl, neg_one_mul, decide_eq_true (neg_neg_of_pos hpos)]

theorem halfUnitBelow_div (a b : Nat) : (halfUnitBelow (a + b) : ℚ) / 2 ^ b = 2 ^ (54 + a) - 2 ^ a := by
  rw [halfUnitBelow, pow_add, pow_add]
  push_cast
  rw [← mul_assoc, mul_div_cancel_right₀ _ (by positivity)]
  norm_num
  ring

/-- The overflow limit as a value. -/
theorem overflowUnits_div : (overflowUnits : ℚ) / unitScale = 2 ^ 1024 - 2 ^ 970 := by
  rw [unitScale]
  exact halfUnitBelow_div 970 1074

theorem lt_overflow_iff {num den : Nat} (hd : 0 < den) (neg : Bool) :
    |exactValue neg num den| < 2 ^ 1024 - 2 ^ 970 ↔ num < overflowUnits * den := by
  have hdq : (0 : ℚ) < den := Nat.cast_pos.2 hd
  rw [abs_exactValue, ← overflowUnits_div, div_lt_div_iff_of_pos_right unitScale_pos, div_lt_iff₀ hdq]
  exact_mod_cast Iff.rfl

/-- The distance in value is that in units, where the signs agree; where they do not, zero is at least as near. -/
theorem abs_f64Rat_sub_exactValue (neg : Bool) (num den : Nat) (y : F64) :
    |f64Rat y - exactValue neg num den| =
      (if f64Neg y = neg then |(f64Units y : ℚ) - num / den| else (f64Units y : ℚ) + num / den) / unitScale := by
  have hone := unitScale_pos
  rw [f64Rat_eq_signFactor, exactValue]
  split
  next heq => rw [heq, ← mul_sub, abs_mul, abs_signFactor, one_mul, ← sub_div, abs_div, abs_of_pos hone]
  next hne =>
    rw [signFactor_of_ne hne, neg_mul, sub_neg_eq_add, ← mul_add, abs_mul, abs_signFactor, one_mul, ← add_div,
      abs_of_nonneg (by positivity)]

/-- Below the overflow limit no finite value is nearer, of either sign. -/
theorem nearestEven_packF64 (neg : Bool) {num den : Nat} (hd : 0 < den) (h : num < overflowUnits * den) :
    NearestEven (packF64 neg (roundMag num den)) (exactValue neg num den) := by
  intro y _
  have hone := unitScale_pos
  have hle := roundMag_le_infMag num den
  have hunits : f64Units (packF64 neg (roundMag num den)) = unitsOfMag (roundMag num den) := by
    rw [f64Units, f64Mag_packF64 neg hle]
  rw [abs_f64Rat_sub_exactValue, abs_f64Rat_sub_exactValue, f64Neg_packF64 neg hle, if_pos rfl, hunits,
    div_le_div_iff_of_pos_right hone, div_left_inj' hone.ne']
  have heven (hmod : roundMag num den % 2 = 0) := getLsbD_zero_packF64 neg hmod
  by_cases hy : f64Neg y = neg
  · obtain ⟨hnear, htie⟩ := roundMag_nearest hd h (f64Mag y)
    rw [if_pos hy]
    refine ⟨hnear, fun heq => (htie heq).imp (fun hsame => ?_) heven⟩
    rw [f64Rat_eq_signFactor, f64Rat_eq_signFactor, f64Neg_packF64 neg hle, hunits, hy, f64Units, hsame]
  · obtain ⟨hnear, htie⟩ := roundMag_nearest hd h 0
    have hquotient : (0 : ℚ) ≤ num / den := by positivity
    have hmag : (0 : ℚ) ≤ f64Units y := Nat.cast_nonneg _
    rw [unitsOfMag_zero, Nat.cast_zero, zero_sub, abs_neg, abs_of_nonneg hquotient] at hnear htie
    rw [if_neg hy]
    refine ⟨by linarith, fun heq => (htie (by linarith)).imp (fun hzero => ?_) heven⟩
    have hy0 : (f64Units y : ℚ) = 0 := by linarith
    rw [f64Rat_eq_signFactor, f64Rat_eq_signFactor, hunits, ← hzero, hy0, Nat.cast_zero, zero_div, mul_zero, mul_zero]

/-- A rounded magnitude with its sign is the exact value rounded. -/
theorem roundsTo_packF64 (neg : Bool) (num : Nat) {den : Nat} (hd : 0 < den) :
    RoundsTo (packF64 neg (roundMag num den)) (exactValue neg num den) := by
  refine ⟨fun h => ?finite, fun h => ?overflow, fun hne => ?sign⟩
  case finite =>
    have hnum := (lt_overflow_iff hd neg).1 h
    exact ⟨isFinite_packF64 neg ((roundMag_lt_infMag_iff hd).2 hnum), nearestEven_packF64 neg hd hnum⟩
  case overflow =>
    have hmag : roundMag num den = infMag :=
      roundMag_of_overflow hd (Nat.not_lt.1 fun hn => ((lt_overflow_iff hd neg).2 hn).not_ge h)
    have hne : exactValue neg num den ≠ 0 := by
      intro hzero
      have hlimit : (0 : ℚ) < 2 ^ 1024 - 2 ^ 970 := sub_pos.2 (pow_lt_pow_right₀ one_lt_two (by norm_num))
      rw [hzero, abs_zero] at h
      exact hlimit.not_ge h
    have hsign := exactValue_sign hne
    rw [hmag]
    cases neg with
    | false => rw [if_neg (of_decide_eq_false hsign)]; rfl
    | true => rw [if_pos (of_decide_eq_true hsign)]; rfl
  case sign => rw [f64Neg_packF64 neg (roundMag_le_infMag num den), exactValue_sign hne]

/-- An exact integer of units, with its sign. -/
theorem exactValue_natAbs (z : Int) : exactValue (decide (z < 0)) z.natAbs 1 = z / unitScale := by
  have hcast : (z.natAbs : ℚ) = |(z : ℚ)| := by rw [Nat.cast_natAbs, Int.cast_abs]
  rw [exactValue, Nat.cast_one, div_one, hcast]
  rcases lt_or_ge z 0 with hz | hz
  · have hz' : (z : ℚ) < 0 := Int.cast_lt_zero.2 hz
    rw [decide_eq_true hz, signFactor, if_pos rfl, abs_of_neg hz', neg_one_mul, neg_div, neg_neg]
  · have hz' : (0 : ℚ) ≤ z := Int.cast_nonneg hz
    rw [decide_eq_false hz.not_gt, signFactor, if_neg Bool.false_ne_true, abs_of_nonneg hz', one_mul]

/-- `x` is the exact value `r` rounded by `roundMag`. -/
def IsRounded (x : F64) (r : ℚ) : Prop :=
  ∃ neg num den, 0 < den ∧ x = packF64 neg (roundMag num den) ∧ r = exactValue neg num den

theorem IsRounded.roundsTo {x : F64} {r : ℚ} (h : IsRounded x r) : RoundsTo x r := by
  obtain ⟨neg, num, den, hd, rfl, rfl⟩ := h
  exact roundsTo_packF64 neg num hd

/-! ### The operations (R10) -/

theorem isZero_iff {a : F64} : isZero a = true ↔ f64Units a = 0 := by
  have hmono := unitsOfMag_strictMono
  constructor
  · intro h
    have hmag : f64Mag a = 0 := of_decide_eq_true h
    rw [f64Units, hmag, unitsOfMag_zero]
  · intro h
    refine decide_eq_true (hmono.injective ?_)
    rw [unitsOfMag_zero]
    exact h

theorem signFactor_mul (a b : Bool) : signFactor a * signFactor b = signFactor (a != b) := by
  cases a <;> cases b <;> norm_num [signFactor]

theorem signFactor_div (a b : Bool) : signFactor a / signFactor b = signFactor (a != b) := by
  cases a <;> cases b <;> norm_num [signFactor]

section
variable {a b : F64} (ha : isFinite a = true) (hb : isFinite b = true)
include ha hb

theorem mul64_of_isFinite :
    mul64 a b = packF64 (f64Neg a != f64Neg b) (roundMag (f64Units a * f64Units b) unitsPerOne) := by
  simp [mul64, isNaN_of_isFinite ha, isNaN_of_isFinite hb, isInf_of_isFinite ha, isInf_of_isFinite hb]

theorem div64_of_isFinite (hzero : isZero b = false) :
    div64 a b = packF64 (f64Neg a != f64Neg b) (roundMag (f64Units a * unitsPerOne) (f64Units b)) := by
  simp [div64, isNaN_of_isFinite ha, isNaN_of_isFinite hb, isInf_of_isFinite ha, isInf_of_isFinite hb, hzero]

theorem addCore_of_isFinite (op : Nat) :
    addCore op a b =
      if f64Int a + f64Int b = 0 then packF64 (f64Neg a && f64Neg b) 0
      else packF64 (decide (f64Int a + f64Int b < 0)) (roundMag (f64Int a + f64Int b).natAbs 1) := by
  simp only [addCore, isInf_of_isFinite ha, isInf_of_isFinite hb, Bool.false_eq_true, if_false]

theorem mul64_isRounded : IsRounded (mul64 a b) (f64Rat a * f64Rat b) := by
  have hvalue : f64Rat a * f64Rat b =
      exactValue (f64Neg a != f64Neg b) (f64Units a * f64Units b) unitsPerOne := by
    rw [f64Rat_eq_signFactor, f64Rat_eq_signFactor, exactValue, ← signFactor_mul, unitsPerOne_cast, Nat.cast_mul]
    ring
  rw [mul64_of_isFinite ha hb, hvalue]
  exact ⟨_, _, _, unitsPerOne_pos, rfl, rfl⟩

theorem div64_isRounded (hzero : isZero b = false) : IsRounded (div64 a b) (f64Rat a / f64Rat b) := by
  have hpos : 0 < f64Units b :=
    Nat.pos_of_ne_zero fun h => (not_busy_and_idle (isZero_iff.2 h) hzero).elim
  have hvalue : f64Rat a / f64Rat b =
      exactValue (f64Neg a != f64Neg b) (f64Units a * unitsPerOne) (f64Units b) := by
    have hone := unitScale_pos
    rw [f64Rat_eq_signFactor, f64Rat_eq_signFactor, exactValue, ← signFactor_div, Nat.cast_mul, unitsPerOne_cast]
    field_simp
  rw [div64_of_isFinite ha hb hzero, hvalue]
  exact ⟨_, _, _, hpos, rfl, rfl⟩

theorem addCore_isRounded (op : Nat) : IsRounded (addCore op a b) (f64Rat a + f64Rat b) := by
  have hsum : f64Rat a + f64Rat b = ((f64Int a + f64Int b : Int) : ℚ) / unitScale := by
    rw [f64Rat_eq_div_unitScale, f64Rat_eq_div_unitScale, ← add_div, Int.cast_add]
  rw [addCore_of_isFinite ha hb, hsum]
  split
  next hzero =>
    have hexact : roundMag 0 1 = 0 := by decide
    refine ⟨f64Neg a && f64Neg b, 0, 1, Nat.one_pos, by rw [hexact], ?_⟩
    rw [hzero, exactValue, Int.cast_zero, Nat.cast_zero, zero_div, zero_div, zero_div, mul_zero]
  next =>
    rw [← exactValue_natAbs]
    exact ⟨_, _, _, Nat.one_pos, rfl, rfl⟩

end

/-! ### Subtraction: the sum with the sign changed -/

theorem f64Mag_neg64 (a : F64) : f64Mag (neg64 a) = f64Mag a := by
  rw [f64Mag, neg64, BitVec.toNat_xor, show (0x8000000000000000 : Nat) = 2 ^ 63 from rfl, Nat.xor_mod_two_pow]
  exact Nat.xor_zero _

theorem f64Neg_eq_msb (a : F64) : f64Neg a = a.msb := by
  rw [f64Neg, BitVec.msb_eq_decide]

theorem f64Neg_neg64 (a : F64) : f64Neg (neg64 a) = !f64Neg a := by
  rw [f64Neg_eq_msb, f64Neg_eq_msb, neg64, BitVec.msb_xor]
  exact Bool.xor_true _

theorem isFinite_neg64 (a : F64) : isFinite (neg64 a) = isFinite a := by
  rw [isFinite, isFinite, f64Mag_neg64]

theorem f64Int_neg64 (a : F64) : f64Int (neg64 a) = -f64Int a := by
  have hunits : f64Units (neg64 a) = f64Units a := by rw [f64Units, f64Units, f64Mag_neg64]
  have hneg := f64Neg_neg64 a
  cases h : f64Neg a with
  | false => rw [f64Int_of_neg (by rw [hneg, h]; rfl), f64Int_of_not_neg h, hunits]
  | true => rw [f64Int_of_not_neg (by rw [hneg, h]; rfl), f64Int_of_neg h, hunits, neg_neg]

theorem f64Rat_neg64 (a : F64) : f64Rat (neg64 a) = -f64Rat a := by
  rw [f64Rat_eq_div_unitScale, f64Rat_eq_div_unitScale, f64Int_neg64, Int.cast_neg, neg_div]

section
variable {a b : F64} (ha : isFinite a = true) (hb : isFinite b = true)
include ha hb

theorem add64_of_isFinite : add64 a b = addCore 0 a b := by
  rw [add64, isNaN_of_isFinite ha, isNaN_of_isFinite hb]
  rfl

theorem sub64_of_isFinite : sub64 a b = addCore 1 a (neg64 b) := by
  rw [sub64, isNaN_of_isFinite ha, isNaN_of_isFinite hb]
  rfl

theorem add64_isRounded : IsRounded (add64 a b) (f64Rat a + f64Rat b) := by
  rw [add64_of_isFinite ha hb]
  exact addCore_isRounded ha hb 0

theorem sub64_isRounded : IsRounded (sub64 a b) (f64Rat a - f64Rat b) := by
  rw [sub64_of_isFinite ha hb, sub_eq_add_neg, ← f64Rat_neg64]
  exact addCore_isRounded ha ((isFinite_neg64 b).trans hb) 1

end

/-- Settles O50: each operation is `roundMag` of the exact quotient or sum with its sign. -/
theorem arithmeticRoundsToNearestEven : Obligations.ArithmeticRoundsToNearestEven :=
  fun _ _ ha hb =>
    ⟨(add64_isRounded ha hb).roundsTo, (sub64_isRounded ha hb).roundsTo, (mul64_isRounded ha hb).roundsTo,
      fun h => (div64_isRounded ha hb h).roundsTo⟩

end Sys2Proof.Machine
end

section
/-! PROOFS. Values as rational numbers: comparisons, and what a rounded result can be. Rounding is monotone and keeps
what is representable, so a bound on the exact result by a value is a bound on the rounded one (R10). -/

namespace Sys2Proof.Machine

/-! ### A value and its fields -/

theorem packF64_f64Neg_f64Mag (a : F64) : packF64 (f64Neg a) (f64Mag a) = a := by
  have hlt := a.isLt
  have hmag : f64Mag a = a.toNat % 0x8000000000000000 := rfl
  apply BitVec.eq_of_toNat_eq
  rw [packF64, BitVec.toNat_ofNat]
  cases h : f64Neg a with
  | false =>
    have hneg : ¬ 0x8000000000000000 ≤ a.toNat := of_decide_eq_false h
    rw [if_neg Bool.false_ne_true]
    omega
  | true =>
    have hneg : 0x8000000000000000 ≤ a.toNat := of_decide_eq_true h
    rw [if_pos rfl]
    omega

theorem isNaN_eq_false_iff {a : F64} : isNaN a = false ↔ f64Mag a ≤ infMag := by
  rw [isNaN, decide_eq_false_iff_not, Nat.not_lt]

theorem isNaN_packF64 (neg : Bool) {m : Nat} (h : m ≤ infMag) : isNaN (packF64 neg m) = false := by
  rw [isNaN_eq_false_iff, f64Mag_packF64 neg h]
  exact h

/-- What is not a NaN is finite or an infinity. -/
theorem finite_or_inf {a : F64} (h : isNaN a = false) :
    isFinite a = true ∨ a = plusInf64 ∨ a = minusInf64 := by
  rcases Nat.lt_or_eq_of_le (isNaN_eq_false_iff.1 h) with hlt | heq
  · exact .inl (isFinite_iff.2 hlt)
  · refine .inr ?_
    rw [← packF64_f64Neg_f64Mag a, heq]
    cases f64Neg a with
    | false => exact .inl rfl
    | true => exact .inr rfl

/-! ### Comparisons -/

theorem f64Rat_le_iff {a b : F64} : f64Rat a ≤ f64Rat b ↔ f64Int a ≤ f64Int b := by
  rw [f64Rat_eq_div_unitScale, f64Rat_eq_div_unitScale, div_le_div_iff_of_pos_right unitScale_pos, Int.cast_le]

theorem f64Rat_lt_iff {a b : F64} : f64Rat a < f64Rat b ↔ f64Int a < f64Int b := by
  rw [← not_le, f64Rat_le_iff, not_le]

theorem le64_iff {a b : F64} (ha : isNaN a = false) (hb : isNaN b = false) :
    le64 a b = true ↔ f64Rat a ≤ f64Rat b := by
  simp [le64, ha, hb, f64Rat_le_iff]

theorem lt64_iff {a b : F64} (ha : isNaN a = false) (hb : isNaN b = false) :
    lt64 a b = true ↔ f64Rat a < f64Rat b := by
  simp [lt64, ha, hb, f64Rat_lt_iff]

/-- A comparison that holds has no NaN in it. -/
theorem isNaN_of_le64 {a b : F64} (h : le64 a b = true) : isNaN a = false ∧ isNaN b = false := by
  simp only [le64, Bool.and_eq_true, Bool.not_eq_true'] at h
  exact h.1

theorem f64Rat_nonneg_iff {a : F64} : 0 ≤ f64Rat a ↔ 0 ≤ f64Int a := by
  have hone := unitScale_pos
  rw [f64Rat_eq_div_unitScale, le_div_iff₀ hone, zero_mul, Int.cast_nonneg_iff]

theorem abs_f64Rat (a : F64) : |f64Rat a| = f64Units a / unitScale := by
  rw [f64Rat_eq_signFactor, abs_mul, abs_signFactor, one_mul,
    abs_of_nonneg (div_nonneg (Nat.cast_nonneg _) unitScale_pos.le)]

/-- Values of smaller magnitude than a finite one are finite. -/
theorem isFinite_of_abs_le {a b : F64} (hb : isFinite b = true) (h : |f64Rat a| ≤ |f64Rat b|) : isFinite a = true := by
  rw [abs_f64Rat, abs_f64Rat, div_le_div_iff_of_pos_right unitScale_pos, Nat.cast_le] at h
  exact isFinite_iff.2 ((unitsOfMag_strictMono.le_iff_le.1 h).trans_lt (isFinite_iff.1 hb))

/-- A value from its units: the fraction `p / q`. -/
theorem f64Rat_eq_ratio {a : F64} {p : Int} {q : Nat} (hq : 0 < q) (h : f64Int a * q = p * unitsPerOne) :
    f64Rat a = p / q := by
  have hone : (unitsPerOne : ℚ) ≠ 0 := Nat.cast_ne_zero.2 unitsPerOne_pos.ne'
  rw [f64Rat_eq_div, div_eq_div_iff hone (Nat.cast_ne_zero.2 hq.ne')]
  exact_mod_cast h

/-! ### Rounded results -/

theorem f64Rat_packF64 (neg : Bool) {m : Nat} (h : m ≤ infMag) :
    f64Rat (packF64 neg m) = signFactor neg * (unitsOfMag m / unitScale) := by
  rw [f64Rat_eq_signFactor, f64Neg_packF64 neg h, f64Units, f64Mag_packF64 neg h]

/-- A value that is not a NaN is itself rounded. -/
theorem isRounded_self {y : F64} (h : isNaN y = false) : IsRounded y (f64Rat y) := by
  have hexact := roundMag_exact (isNaN_eq_false_iff.1 h) Nat.one_pos
  rw [Nat.mul_one] at hexact
  refine ⟨f64Neg y, f64Units y, 1, Nat.one_pos, ?_, ?_⟩
  · rw [f64Units, hexact, packF64_f64Neg_f64Mag]
  · rw [f64Rat_eq_signFactor, exactValue, Nat.cast_one, div_one]

theorem roundMag_zero {den : Nat} (hd : 0 < den) : roundMag 0 den = 0 := by
  have hexact := roundMag_exact (Nat.zero_le infMag) hd
  rwa [unitsOfMag_zero, Nat.zero_mul] at hexact

/-- The magnitudes of rounded quotients are in the order of the quotients. -/
theorem unitsOfMag_roundMag_mono {n1 d1 n2 d2 : Nat} (h1 : 0 < d1) (h2 : 0 < d2)
    (h : (n1 / d1 / unitScale : ℚ) ≤ n2 / d2 / unitScale) :
    (unitsOfMag (roundMag n1 d1) / unitScale : ℚ) ≤ unitsOfMag (roundMag n2 d2) / unitScale := by
  have hone := unitScale_pos
  rw [div_le_div_iff_of_pos_right hone, div_le_div_iff₀ (Nat.cast_pos.2 h1) (Nat.cast_pos.2 h2)] at h
  rw [div_le_div_iff_of_pos_right hone, Nat.cast_le]
  exact unitsOfMag_strictMono.monotone (roundMag_mono h1 h2 (by exact_mod_cast h))

theorem eq_zero_of_quotient_nonpos {num den : Nat} (hd : 0 < den) (h : (num / den / unitScale : ℚ) ≤ 0) : num = 0 := by
  have hone := unitScale_pos
  have hden : (0 : ℚ) < den := Nat.cast_pos.2 hd
  by_contra hne
  have hnum : (0 : ℚ) < num := Nat.cast_pos.2 (Nat.pos_of_ne_zero hne)
  exact h.not_gt (div_pos (div_pos hnum hden) hone)

namespace IsRounded

variable {x y : F64} {r q : ℚ}

theorem isNaN_eq_false (h : IsRounded x r) : isNaN x = false := by
  obtain ⟨neg, num, den, -, rfl, -⟩ := h
  exact isNaN_packF64 neg (roundMag_le_infMag num den)

/-- Rounding is monotone, over signs. -/
theorem mono (hx : IsRounded x r) (hy : IsRounded y q) (h : r ≤ q) : f64Rat x ≤ f64Rat y := by
  obtain ⟨neg₁, n1, d1, h1, rfl, rfl⟩ := hx
  obtain ⟨neg₂, n2, d2, h2, rfl, rfl⟩ := hy
  have hone := unitScale_pos
  have hquotient₁ : (0 : ℚ) ≤ n1 / d1 / unitScale := by positivity
  have hquotient₂ : (0 : ℚ) ≤ n2 / d2 / unitScale := by positivity
  have hmag₁ : (0 : ℚ) ≤ unitsOfMag (roundMag n1 d1) / unitScale := div_nonneg (Nat.cast_nonneg _) hone.le
  have hmag₂ : (0 : ℚ) ≤ unitsOfMag (roundMag n2 d2) / unitScale := div_nonneg (Nat.cast_nonneg _) hone.le
  rw [f64Rat_packF64 _ (roundMag_le_infMag n1 d1), f64Rat_packF64 _ (roundMag_le_infMag n2 d2)]
  rw [exactValue, exactValue] at h
  cases neg₁ <;> cases neg₂ <;>
    simp only [signFactor, Bool.false_eq_true, if_true, if_false, one_mul, neg_one_mul, neg_le_neg_iff] at h ⊢
  case false.false => exact unitsOfMag_roundMag_mono h1 h2 h
  case true.true => exact unitsOfMag_roundMag_mono h2 h1 h
  case true.false => exact (neg_nonpos.2 hmag₁).trans hmag₂
  case false.true =>
    obtain rfl := eq_zero_of_quotient_nonpos h1 (h.trans (neg_nonpos.2 hquotient₂))
    obtain rfl := eq_zero_of_quotient_nonpos h2 (neg_nonneg.1 (hquotient₁.trans h))
    rw [roundMag_zero h1, roundMag_zero h2, unitsOfMag_zero, Nat.cast_zero, zero_div, neg_zero]

theorem le_of_le (hx : IsRounded x r) (hy : isNaN y = false) (h : r ≤ f64Rat y) : f64Rat x ≤ f64Rat y :=
  hx.mono (isRounded_self hy) h

theorem ge_of_ge (hx : IsRounded x r) (hy : isNaN y = false) (h : f64Rat y ≤ r) : f64Rat y ≤ f64Rat x :=
  (isRounded_self hy).mono hx h

theorem nonneg (hx : IsRounded x r) (h : 0 ≤ r) : 0 ≤ f64Rat x := by
  have hzero : f64Rat zero64 = 0 := by
    rw [f64Rat_eq_div_unitScale, show f64Int zero64 = 0 from rfl, Int.cast_zero, zero_div]
  rw [← hzero] at h ⊢
  exact hx.ge_of_ge (by decide) h

/-- A result between 0 and a finite value is finite and between them. -/
theorem bounded (hx : IsRounded x r) (hy : isFinite y = true) (h0 : 0 ≤ r) (h : r ≤ f64Rat y) :
    isFinite x = true ∧ 0 ≤ f64Rat x ∧ f64Rat x ≤ f64Rat y := by
  have hle := hx.le_of_le (isNaN_of_isFinite hy) h
  have hnonneg := hx.nonneg h0
  have habs : |f64Rat x| ≤ |f64Rat y| := by rwa [abs_of_nonneg hnonneg, abs_of_nonneg (hnonneg.trans hle)]
  exact ⟨isFinite_of_abs_le hy habs, hnonneg, hle⟩

end IsRounded

end Sys2Proof.Machine
end

section
/-! PROOFS. The PCM quantizer (spec/44_pcm_quantizer.md): the product with 32767.0, `rte` and the clamp are each
monotone, and an infinite product clamps like a finite one that is large. -/

namespace Sys2Proof.Machine

/-- Whole numbers are rounded to monotonically. -/
theorem rte_mono {a b : F64} (h : f64Rat a ≤ f64Rat b) : rte a ≤ rte b := by
  rw [f64Rat_le_iff] at h
  have hone := unitsPerOne_pos
  have hmono {m n : Nat} (hmn : m ≤ n) : roundNearestEven m unitsPerOne ≤ roundNearestEven n unitsPerOne :=
    roundNearestEven_mono hone hone (Nat.mul_le_mul_right _ hmn)
  have hzero : roundNearestEven 0 unitsPerOne = 0 := by simpa using roundNearestEven_exact 0 hone
  cases ha : f64Neg a with
  | false =>
    cases hb : f64Neg b with
    | false =>
      rw [f64Int_of_not_neg ha, f64Int_of_not_neg hb] at h
      rw [rte_of_not_neg ha, rte_of_not_neg hb]
      exact_mod_cast hmono (Int.ofNat_le.1 h)
    | true =>
      rw [f64Int_of_not_neg ha, f64Int_of_neg hb] at h
      rw [rte_of_not_neg ha, rte_of_neg hb, show f64Units a = 0 by omega, show f64Units b = 0 by omega, hzero]
      exact le_rfl
  | true =>
    cases hb : f64Neg b with
    | false =>
      rw [rte_of_neg ha, rte_of_not_neg hb]
      omega
    | true =>
      rw [f64Int_of_neg ha, f64Int_of_neg hb] at h
      rw [rte_of_neg ha, rte_of_neg hb]
      exact neg_le_neg (Int.ofNat_le.2 (hmono (by omega)))

theorem clampInt_mono {v w lo hi : Int} (h : v ≤ w) : clampInt v lo hi ≤ clampInt w lo hi :=
  min_le_min_right hi (max_le_max_right lo h)

/-! ### quant (R150) -/

theorem isFinite_pcmMax64 : isFinite pcmMax64 = true := by decide +kernel

theorem isNaN_mul64_pcmMax64 {a : F64} (h : isNaN a = false) : isNaN (mul64 a pcmMax64) = false := by
  rcases finite_or_inf h with hfin | rfl | rfl
  · exact (mul64_isRounded hfin isFinite_pcmMax64).isNaN_eq_false
  · decide +kernel
  · decide +kernel

theorem quant_of_isNaN {a : F64} (h : isNaN a = true) : quant a = 0 := if_pos h

theorem quant_of_mul64_eq_plusInf64 {a : F64} (h : isNaN a = false) (hy : mul64 a pcmMax64 = plusInf64) :
    quant a = 32767 := by
  rw [quant, h, if_neg Bool.false_ne_true, if_pos hy]

theorem quant_of_mul64_eq_minusInf64 {a : F64} (h : isNaN a = false) (hy : mul64 a pcmMax64 = minusInf64) :
    quant a = -32768 := by
  rw [quant, h, if_neg Bool.false_ne_true, hy]
  decide +kernel

theorem quant_of_mul64_isFinite {a : F64} (h : isNaN a = false) (hy : isFinite (mul64 a pcmMax64) = true) :
    quant a = clampInt (rte (mul64 a pcmMax64)) (-32768) 32767 := by
  have hplus : mul64 a pcmMax64 ≠ plusInf64 := by
    intro heq
    rw [heq] at hy
    exact absurd hy (by decide)
  have hminus : mul64 a pcmMax64 ≠ minusInf64 := by
    intro heq
    rw [heq] at hy
    exact absurd hy (by decide)
  rw [quant, h, if_neg Bool.false_ne_true]
  exact (if_neg hplus).trans (if_neg hminus)

/-- As `rte` counts the units of an infinity too, which are more than those of any finite value, the infinities need no
case of their own. -/
theorem quant_of_not_isNaN {a : F64} (h : isNaN a = false) :
    quant a = clampInt (rte (mul64 a pcmMax64)) (-32768) 32767 := by
  rcases finite_or_inf (isNaN_mul64_pcmMax64 h) with hfin | hplus | hminus
  · exact quant_of_mul64_isFinite h hfin
  · rw [quant_of_mul64_eq_plusInf64 h hplus, hplus]
    decide +kernel
  · rw [quant_of_mul64_eq_minusInf64 h hminus, hminus]
    decide +kernel

theorem quant_range (a : F64) : -32768 ≤ quant a ∧ quant a ≤ 32767 := by
  cases h : isNaN a with
  | true =>
    rw [quant_of_isNaN h]
    decide
  | false =>
    rw [quant_of_not_isNaN h, clampInt]
    omega

theorem quant_plusInf64 : quant plusInf64 = 32767 := by decide +kernel

theorem quant_minusInf64 : quant minusInf64 = -32768 := by decide +kernel

theorem f64Rat_lt_plusInf64 {a : F64} (h : isFinite a = true) : f64Rat a < f64Rat plusInf64 := by
  have hunits : f64Units a < f64Units plusInf64 := unitsOfMag_strictMono (isFinite_iff.1 h)
  have hint := natAbs_f64Int a
  rw [f64Rat_lt_iff, f64Int_of_not_neg (a := plusInf64) (by decide)]
  omega

theorem f64Rat_minusInf64_lt {a : F64} (h : isFinite a = true) : f64Rat minusInf64 < f64Rat a := by
  have hunits : f64Units a < f64Units minusInf64 := unitsOfMag_strictMono (isFinite_iff.1 h)
  have hint := natAbs_f64Int a
  rw [f64Rat_lt_iff, f64Int_of_neg (a := minusInf64) (by decide)]
  omega

/-- The product with the positive 32767.0 keeps the order, and so does its rounding. -/
theorem quant_mono_of_isFinite {a b : F64} (ha : isFinite a = true) (hb : isFinite b = true)
    (h : f64Rat a ≤ f64Rat b) : quant a ≤ quant b := by
  have hmax : f64Rat pcmMax64 = 32767 := f64Rat_of_f64Int_eq_mul (k := 32767) (by decide +kernel)
  have hproduct : f64Rat a * f64Rat pcmMax64 ≤ f64Rat b * f64Rat pcmMax64 := by
    rw [hmax]
    linarith
  rw [quant_of_not_isNaN (isNaN_of_isFinite ha), quant_of_not_isNaN (isNaN_of_isFinite hb)]
  exact clampInt_mono (rte_mono
    ((mul64_isRounded ha isFinite_pcmMax64).mono (mul64_isRounded hb isFinite_pcmMax64) hproduct))

theorem quant_mono {a b : F64} (h : le64 a b = true) : quant a ≤ quant b := by
  obtain ⟨hna, hnb⟩ := isNaN_of_le64 h
  rw [le64_iff hna hnb] at h
  rcases finite_or_inf hna with ha | rfl | rfl
  · rcases finite_or_inf hnb with hb | rfl | rfl
    · exact quant_mono_of_isFinite ha hb h
    · rw [quant_plusInf64]
      exact (quant_range a).2
    · exact absurd h (f64Rat_minusInf64_lt ha).not_ge
  · rcases finite_or_inf hnb with hb | rfl | rfl
    · exact absurd h (f64Rat_lt_plusInf64 hb).not_ge
    · exact le_rfl
    · exact absurd h ((f64Rat_minusInf64_lt (a := zero64) (by decide)).trans (f64Rat_lt_plusInf64 (by decide))).not_ge
  · rw [quant_minusInf64]
    exact (quant_range b).1

/-- Settles O59: the product, `rte` and the clamp are each monotone. -/
theorem quantizerIsMonotone : Obligations.QuantizerIsMonotone := fun _ _ h => quant_mono h

/-- The exact values of R152(a) and the corner cases of R151. -/
theorem quant_examples :
    quant 0x3FF0000000000000#64 = 32767 ∧ quant 0xBFF0000000000000#64 = -32767 ∧
      quant 0x0000000000000000#64 = 0 ∧ quant 0x8000000000000000#64 = 0 ∧
      quant 0x3FE0000000000000#64 = 16384 ∧ quant 0xBFE0000000000000#64 = -16384 ∧
      quant 0x3FF8000000000000#64 = 32767 ∧ quant 0xC000000000000000#64 = -32768 ∧
      quant 0x7FF0000000000000#64 = 32767 ∧ quant 0xFFF0000000000000#64 = -32768 := by decide +kernel

/-- A sample in [-1, 1] quantizes between the values of the ends. -/
theorem quant_unit_range {a : F64} (hlow : le64 minusOne64 a = true) (hhigh : le64 a one64 = true) :
    -32767 ≤ quant a ∧ quant a ≤ 32767 := by
  obtain ⟨hone, hminusOne, -⟩ := quant_examples
  have hlow' := quant_mono hlow
  have hhigh' := quant_mono hhigh
  rw [show quant minusOne64 = -32767 from hminusOne] at hlow'
  rw [show quant one64 = 32767 from hone] at hhigh'
  exact ⟨hlow', hhigh'⟩

/-- Settles O58: the cases of R150 are the branches of `quant`; the [-1, 1] bound is monotonicity. -/
theorem quantizerNeverWraps : Obligations.QuantizerNeverWraps :=
  ⟨fun _ h => quant_of_isNaN h,
    fun _ h =>
      ⟨finite_or_inf (isNaN_mul64_pcmMax64 h), fun hy => quant_of_mul64_eq_plusInf64 h hy,
        fun hy => quant_of_mul64_eq_minusInf64 h hy, fun hy => quant_of_mul64_isFinite h hy⟩,
    quant_range, fun _ hlow hhigh => quant_unit_range hlow hhigh, quant_examples⟩

end Sys2Proof.Machine
end

section
/-! PROOFS. The time axis (spec/42_time_quantizer.md): which tempi are invalid, and the bounds of a valid axis, from
which its duration, its times and every product with them are finite. -/

namespace Sys2Proof.Machine

/-! ### Literals as rational numbers -/

theorem f64Rat_zero64 : f64Rat zero64 = 0 := f64Rat_of_f64Int_eq_mul (k := 0) (by decide +kernel)

theorem f64Rat_one64 : f64Rat one64 = 1 := f64Rat_of_f64Int_eq_mul (k := 1) (by decide +kernel)

theorem f64Rat_two64 : f64Rat two64 = 2 := f64Rat_of_f64Int_eq_mul (k := 2) (by decide +kernel)

theorem f64Rat_minusOne64 : f64Rat minusOne64 = -1 := f64Rat_of_f64Int_eq_mul (k := -1) (by decide +kernel)

theorem f64Rat_beatSeconds64 : f64Rat beatSeconds64 = 60 := f64Rat_of_f64Int_eq_mul (k := 60) (by decide +kernel)

theorem f64Rat_sampleRate64 : f64Rat sampleRate64 = 44100 :=
  f64Rat_of_f64Int_eq_mul (k := 44100) (by decide +kernel)

/-! ### Invalid tempi (R110) -/

/-- R110 on the model's own names. -/
theorem axis_eq_none_iff (b : F64) :
    axis b = none ↔
      isNaN b = true ∨ le64 b zero64 = true ∨
        isFinite (mul64 sampleRate64 (div64 beatSeconds64 b)) = false ∨
        rte (mul64 sampleRate64 (div64 beatSeconds64 b)) < 1 ∨
        4294967295 < rte (mul64 sampleRate64 (div64 beatSeconds64 b)) := by
  simp only [axis]
  split
  next hb =>
    rw [Bool.or_eq_true] at hb
    exact iff_of_true rfl (or_assoc.1 (.inl hb))
  next hb =>
    obtain ⟨hnan, hle⟩ : isNaN b = false ∧ le64 b zero64 = false := by simpa using hb
    rw [hnan, hle]
    split
    next hy => simpa using Or.inl (by simpa using hy)
    next hy =>
      rw [Bool.not_eq_true, Bool.not_eq_false'] at hy
      rw [hy]
      split
      next hn => simpa using hn
      next hn => simpa using hn

/-! ### The duration of a valid axis -/

/-- A valid tempo is finite: 60 / +inf is 0, which gives no sample. -/
theorem isFinite_of_axis {b d : F64} {n : Nat} (h : axis b = some (d, n)) :
    isFinite b = true ∧ 0 < f64Rat b := by
  obtain ⟨hnan, hle, rfl, -, hrte, hn, -⟩ := axis_some h
  have hpos : f64Rat zero64 < f64Rat b := by
    rw [← not_le, ← le64_iff hnan (by decide), hle]
    exact Bool.false_ne_true
  rw [f64Rat_zero64] at hpos
  rcases finite_or_inf hnan with hfin | rfl | rfl
  · exact ⟨hfin, hpos⟩
  · have hzero : rte (mul64 sampleRate64 (div64 beatSeconds64 plusInf64)) = 0 := by decide +kernel
    omega
  · have hless : le64 minusInf64 zero64 = true := by decide +kernel
    exact (not_busy_and_idle hless hle).elim

theorem isZero_eq_false_of_pos {b : F64} (h : 0 < f64Rat b) : isZero b = false := by
  cases hb : isZero b with
  | false => rfl
  | true =>
    have hzero := abs_f64Rat b
    rw [isZero_iff.1 hb, Nat.cast_zero, zero_div, abs_eq_zero] at hzero
    exact absurd hzero h.ne'

theorem duration_isRounded {b d : F64} {n : Nat} (h : axis b = some (d, n)) : IsRounded d (60 / f64Rat b) := by
  obtain ⟨hb, hpos⟩ := isFinite_of_axis h
  obtain ⟨-, -, rfl, -⟩ := axis_some h
  rw [← f64Rat_beatSeconds64]
  exact div64_isRounded (by decide) hb (isZero_eq_false_of_pos hpos)

/-- A duration that is infinite would give an infinite count. -/
theorem isFinite_duration {b d : F64} {n : Nat} (h : axis b = some (d, n)) : isFinite d = true := by
  obtain ⟨-, -, -, hy, -⟩ := axis_some h
  rcases finite_or_inf (duration_isRounded h).isNaN_eq_false with hfin | rfl | rfl
  · exact hfin
  · exact absurd hy (by decide +kernel)
  · exact absurd hy (by decide +kernel)

/-- The product of the sample rate and the duration, before `rte`. -/
theorem sampleCount_isRounded {b d : F64} {n : Nat} (h : axis b = some (d, n)) :
    IsRounded (mul64 sampleRate64 d) (44100 * f64Rat d) := by
  rw [← f64Rat_sampleRate64]
  exact mul64_isRounded (by decide) (isFinite_duration h)

theorem sampleCount_bounds {b d : F64} {n : Nat} (h : axis b = some (d, n)) :
    1 / 2 ≤ f64Rat (mul64 sampleRate64 d) ∧ f64Rat (mul64 sampleRate64 d) < 2 ^ 32 := by
  obtain ⟨-, -, -, -, hrte, hn, hn'⟩ := axis_some h
  obtain ⟨hclose, -⟩ := rte_nearest_even (mul64 sampleRate64 d)
  have hone : (1 : ℚ) ≤ n := by exact_mod_cast hn
  have hlimit : (n : ℚ) ≤ 4294967295 := by exact_mod_cast hn'
  rw [hrte, Int.cast_natCast, abs_le] at hclose
  constructor <;> linarith

/-- The bounds of a valid duration, generous ones: 44100 times 2^-17 is below 1/2 and 44100 times 2^17 above 2^32, and
both products are representable. -/
theorem duration_bounds {b d : F64} {n : Nat} (h : axis b = some (d, n)) :
    1 / 2 ^ 17 ≤ f64Rat d ∧ f64Rat d ≤ 2 ^ 17 := by
  obtain ⟨hlow, hhigh⟩ := sampleCount_bounds h
  have hround := sampleCount_isRounded h
  constructor
  · by_contra hlt
    have hliteral : f64Rat 0x3FD5888000000000#64 = (44100 : Int) / (2 ^ 17 : Nat) :=
      f64Rat_eq_ratio (by norm_num) (by decide +kernel)
    have hle := hround.le_of_le (y := 0x3FD5888000000000#64) (by decide) (by rw [hliteral]; push_cast; linarith)
    rw [hliteral] at hle
    norm_num at hle
    linarith
  · by_contra hgt
    have hliteral : f64Rat 0x41F5888000000000#64 = (44100 * 2 ^ 17 : Int) :=
      f64Rat_of_f64Int_eq_mul (by decide +kernel)
    have hge := hround.ge_of_ge (y := 0x41F5888000000000#64) (by decide) (by rw [hliteral]; push_cast; linarith)
    rw [hliteral] at hge
    norm_num at hge
    linarith

theorem duration_pos {b d : F64} {n : Nat} (h : axis b = some (d, n)) : 0 < f64Rat d :=
  lt_of_lt_of_le (by norm_num) (duration_bounds h).1

/-- Settles O53: the tests are the branches of `axis`; a valid count keeps the duration and the tempo finite. -/
theorem tempoIsInvalidExactlyAsStated : Obligations.TempoIsInvalidExactlyAsStated := by
  intro b
  refine ⟨axis_eq_none_iff b, fun d n h => ?_⟩
  obtain ⟨hb, hpos⟩ := isFinite_of_axis h
  have hd := isFinite_duration h
  have hzero : isNaN zero64 = false := by decide
  have hdpos : lt64 zero64 d = true := by
    rw [lt64_iff hzero (isNaN_of_isFinite hd), f64Rat_zero64]
    exact duration_pos h
  have hbpos : lt64 zero64 b = true := by
    rw [lt64_iff hzero (isNaN_of_isFinite hb), f64Rat_zero64]
    exact hpos
  obtain ⟨-, -, rfl, -, hrte, -⟩ := axis_some h
  exact ⟨rfl, hrte.symm, hd, hdpos, hb, hbpos⟩

end Sys2Proof.Machine
end

section
/-! PROOFS. The times of a valid axis (spec/42_time_quantizer.md R111): the count is exact, each product is off by at
most one part in 2^53, and a step from `k` to `k + 1` below 2^32 is more than both errors. -/

namespace Sys2Proof.Machine

/-! ### The relative error of a rounding -/

theorem two_pow_le_unitScale {e : Nat} (h : e ≤ 1074) : 2 ^ e ≤ unitScale := by
  rw [unitScale]
  exact pow_le_pow_right₀ one_le_two h

/-- Half the unit of the last place, against a quotient of at least 2^52 units. -/
theorem half_two_pow_roundShift_le {num den : Nat} (hd : 0 < den) (h : (2 ^ 52 : ℚ) ≤ num / den) :
    (2 ^ roundShift num den : ℚ) / 2 ≤ num / den / 2 ^ 53 := by
  have hunit : (2 ^ 52 * 2 ^ roundShift num den : ℚ) ≤ num / den := by
    rcases Nat.eq_zero_or_pos (roundShift num den) with hs | hs
    · rwa [hs, pow_zero, mul_one]
    · exact le_quotient hd hs
  rw [le_div_iff₀ (by norm_num)]
  linarith

/-- Of a result that is not tiny the rounding error is at most one part in 2^53. -/
theorem IsRounded.abs_sub_le {x : F64} {r : ℚ} (h : IsRounded x r) (hx : isFinite x = true)
    (hr : 1 / 2 ^ 60 ≤ |r|) : |f64Rat x - r| ≤ |r| / 2 ^ 53 := by
  obtain ⟨neg, num, den, hd, rfl, rfl⟩ := h
  have hone := unitScale_pos
  have hle := roundMag_le_infMag num den
  have hnum : num < overflowUnits * den := by
    rw [isFinite_iff, f64Mag_packF64 neg hle, roundMag_lt_infMag_iff hd] at hx
    exact hx
  obtain ⟨hclose, -⟩ := roundMag_close hd hnum
  have hlarge : (2 ^ 52 : ℚ) ≤ num / den := by
    rw [abs_exactValue, le_div_iff₀ hone] at hr
    have hscale := two_pow_le_unitScale (e := 112) (by norm_num)
    norm_num at hscale hr ⊢
    linarith
  have herror := half_two_pow_roundShift_le hd hlarge
  rw [abs_f64Rat_sub_exactValue, if_pos (f64Neg_packF64 neg hle), abs_exactValue, f64Units, f64Mag_packF64 neg hle,
    div_right_comm, div_le_div_iff_of_pos_right hone]
  linarith

/-- The same for a positive result, as two bounds. -/
theorem IsRounded.relative_bounds {x : F64} {r : ℚ} (h : IsRounded x r) (hx : isFinite x = true)
    (hr : 1 / 2 ^ 60 ≤ r) : r * (1 - 1 / 2 ^ 53) ≤ f64Rat x ∧ f64Rat x ≤ r * (1 + 1 / 2 ^ 53) := by
  have hpos : 0 < r := lt_of_lt_of_le (by norm_num) hr
  have herror := h.abs_sub_le hx (by rwa [abs_of_pos hpos])
  rw [abs_of_pos hpos, abs_le] at herror
  constructor <;> linarith

/-! ### Whole numbers below 2^32 (R10) -/

theorem f64OfNat_exact {m : Nat} (h : m < 2 ^ 32) :
    isFinite (f64OfNat m) = true ∧ f64Neg (f64OfNat m) = false ∧ f64Rat (f64OfNat m) = m := by
  obtain ⟨mag, hmag, hunits⟩ := exists_unitsOfMag_eq_mul_two_pow (k := m) (e := 1074) (by omega) (by norm_num)
  have hexact := roundMag_exact hmag.le Nat.one_pos
  have heq : f64OfNat m = packF64 false mag := by
    rw [f64OfNat, unitsPerOne, ← hunits, ← Nat.mul_one (unitsOfMag mag), hexact]
  rw [heq]
  refine ⟨isFinite_packF64 false hmag, f64Neg_packF64 false hmag.le, ?_⟩
  refine f64Rat_of_f64Int_eq_mul (k := m) ?_
  rw [f64Int_packF64 false hmag.le, if_neg Bool.false_ne_true, hunits, ← unitsPerOne, Nat.cast_mul]

/-! ### The time of a sample (R111) -/

theorem timeValue_zero (d : F64) (n : Nat) : timeValue 0 d n = zero64 := if_pos rfl

theorem timeValue_last {n : Nat} (d : F64) (h : 2 ≤ n) : timeValue (n - 1) d n = d := by
  rw [timeValue, if_neg (by omega), if_pos (by omega)]

theorem timeValue_between {k n : Nat} (d : F64) (h0 : 0 < k) (h : k + 1 < n) :
    timeValue k d n = mul64 (f64OfNat k) (div64 d (f64OfNat (n - 1))) := by
  rw [timeValue, if_neg h0.ne', if_neg h.ne]

/-- The exact time between two samples. -/
def exactStep (d : F64) (n : Nat) : ℚ := f64Rat d / ((n - 1 : Nat) : ℚ)

section
variable {b d : F64} {n : Nat} (h : axis b = some (d, n))
include h

theorem exactStep_isRounded (hn : 2 ≤ n) : IsRounded (div64 d (f64OfNat (n - 1))) (exactStep d n) := by
  obtain ⟨-, -, -, -, -, -, hlimit⟩ := axis_some h
  obtain ⟨hfin, -, hvalue⟩ := f64OfNat_exact (m := n - 1) (by omega)
  have hpos : (0 : ℚ) < f64Rat (f64OfNat (n - 1)) := by
    rw [hvalue]
    exact Nat.cast_pos.2 (by omega)
  rw [exactStep, ← hvalue]
  exact div64_isRounded (isFinite_duration h) hfin (isZero_eq_false_of_pos hpos)

theorem exactStep_bounds (hn : 2 ≤ n) : 1 / 2 ^ 49 ≤ exactStep d n ∧ exactStep d n ≤ f64Rat d := by
  obtain ⟨-, -, -, -, -, -, hlimit⟩ := axis_some h
  obtain ⟨hlow, -⟩ := duration_bounds h
  have hone : (1 : ℚ) ≤ ((n - 1 : Nat) : ℚ) := by exact_mod_cast (by omega : 1 ≤ n - 1)
  have hle : ((n - 1 : Nat) : ℚ) ≤ 2 ^ 32 := by exact_mod_cast (by omega : n - 1 ≤ 2 ^ 32)
  have hpos := duration_pos h
  rw [exactStep]
  generalize ((n - 1 : Nat) : ℚ) = m at *
  constructor
  · rw [le_div_iff₀ (by linarith)]
    linarith
  · exact div_le_self hpos.le hone

theorem roundedStep_bounds (hn : 2 ≤ n) :
    isFinite (div64 d (f64OfNat (n - 1))) = true ∧
      exactStep d n * (1 - 1 / 2 ^ 53) ≤ f64Rat (div64 d (f64OfNat (n - 1))) ∧
      f64Rat (div64 d (f64OfNat (n - 1))) ≤ exactStep d n * (1 + 1 / 2 ^ 53) := by
  have hround := exactStep_isRounded h hn
  obtain ⟨hlow, hle⟩ := exactStep_bounds h hn
  obtain ⟨hfin, -⟩ := hround.bounded (isFinite_duration h) (le_trans (by norm_num) hlow) hle
  exact ⟨hfin, hround.relative_bounds hfin (le_trans (by norm_num) hlow)⟩

/-- Between the ends a time is the rounded product of the number and the rounded step. -/
theorem timeValue_isRounded {k : Nat} (h0 : 0 < k) (hk : k + 1 < n) :
    IsRounded (timeValue k d n) (k * f64Rat (div64 d (f64OfNat (n - 1)))) := by
  obtain ⟨-, -, -, -, -, -, hlimit⟩ := axis_some h
  obtain ⟨hfin, -⟩ := roundedStep_bounds h (by omega)
  obtain ⟨hcount, -, hvalue⟩ := f64OfNat_exact (m := k) (by omega)
  rw [timeValue_between d h0 hk, ← hvalue]
  exact mul64_isRounded hcount hfin

theorem timeProduct_bounds {k : Nat} (h0 : 0 < k) (hk : k + 1 < n) :
    1 / 2 ^ 50 ≤ k * f64Rat (div64 d (f64OfNat (n - 1))) ∧ k * f64Rat (div64 d (f64OfNat (n - 1))) ≤ 2 ^ 50 := by
  obtain ⟨-, -, -, -, -, -, hlimit⟩ := axis_some h
  obtain ⟨-, hhigh⟩ := duration_bounds h
  obtain ⟨hlow', hhigh'⟩ := exactStep_bounds h (by omega)
  obtain ⟨-, hlow'', hhigh''⟩ := roundedStep_bounds h (by omega)
  have hone : (1 : ℚ) ≤ k := by exact_mod_cast h0
  have hle : (k : ℚ) ≤ 2 ^ 32 := by exact_mod_cast (by omega : k ≤ 2 ^ 32)
  generalize f64Rat (div64 d (f64OfNat (n - 1))) = step at *
  have hstep : 1 / 2 ^ 50 ≤ step := by linarith
  constructor
  · calc (1 / 2 ^ 50 : ℚ) ≤ 1 * step := by linarith
      _ ≤ k * step := mul_le_mul_of_nonneg_right hone (by linarith)
  · calc k * step ≤ 2 ^ 32 * step := mul_le_mul_of_nonneg_right hle (by linarith)
      _ ≤ 2 ^ 50 := by linarith

/-- Every time is finite and not negative, and at most 2^50 (a bound far from sharp). -/
theorem timeValue_bounds {k : Nat} (hk : k < n) :
    isFinite (timeValue k d n) = true ∧ 0 ≤ f64Rat (timeValue k d n) ∧ f64Rat (timeValue k d n) ≤ 2 ^ 50 := by
  obtain ⟨-, hhigh⟩ := duration_bounds h
  rcases Nat.eq_zero_or_pos k with rfl | hpos
  · rw [timeValue_zero, f64Rat_zero64]
    exact ⟨by decide, le_rfl, by norm_num⟩
  · rcases Nat.lt_or_eq_of_le (Nat.succ_le_of_lt hk) with hlt | heq
    · obtain ⟨hlow', hhigh'⟩ := timeProduct_bounds h hpos hlt
      have hliteral : f64Rat 0x4310000000000000#64 = (2 ^ 50 : Int) := f64Rat_of_f64Int_eq_mul (by decide +kernel)
      rw [Int.cast_pow, Int.cast_ofNat] at hliteral
      rw [← hliteral] at hhigh' ⊢
      exact (timeValue_isRounded h hpos hlt).bounded (by decide) (le_trans (by norm_num) hlow') hhigh'
    · obtain rfl : k = n - 1 := by omega
      rw [timeValue_last d (by omega)]
      exact ⟨isFinite_duration h, (duration_pos h).le, hhigh.trans (by norm_num)⟩

/-! ### The times rise (R115) -/

/-- Two roundings above a time's exact value at most. -/
theorem timeValue_le {k : Nat} (hk : k + 1 < n) :
    f64Rat (timeValue k d n) ≤ k * exactStep d n * (1 + 1 / 2 ^ 53) * (1 + 1 / 2 ^ 53) := by
  rcases Nat.eq_zero_or_pos k with rfl | hpos
  · rw [timeValue_zero, f64Rat_zero64, Nat.cast_zero, zero_mul, zero_mul, zero_mul]
  · obtain ⟨hfin, -⟩ := timeValue_bounds h (k := k) (by omega)
    obtain ⟨hlow, -⟩ := timeProduct_bounds h hpos hk
    obtain ⟨-, hupper⟩ := (timeValue_isRounded h hpos hk).relative_bounds hfin (le_trans (by norm_num) hlow)
    obtain ⟨-, -, hstep⟩ := roundedStep_bounds h (by omega)
    have hproduct := mul_le_mul_of_nonneg_left hstep (Nat.cast_nonneg (α := ℚ) k)
    linarith

/-- Two roundings below it at most. -/
theorem le_timeValue {k : Nat} (h0 : 0 < k) (hk : k < n) :
    k * exactStep d n * (1 - 1 / 2 ^ 53) * (1 - 1 / 2 ^ 53) ≤ f64Rat (timeValue k d n) := by
  rcases Nat.lt_or_eq_of_le (Nat.succ_le_of_lt hk) with hlt | heq
  · obtain ⟨hfin, -⟩ := timeValue_bounds h (k := k) hk
    obtain ⟨hlow, -⟩ := timeProduct_bounds h h0 hlt
    obtain ⟨hlower, -⟩ := (timeValue_isRounded h h0 hlt).relative_bounds hfin (le_trans (by norm_num) hlow)
    obtain ⟨-, hstep, -⟩ := roundedStep_bounds h (by omega)
    have hproduct := mul_le_mul_of_nonneg_left hstep (Nat.cast_nonneg (α := ℚ) k)
    linarith
  · obtain rfl : k = n - 1 := by omega
    have hpos := duration_pos h
    have hcount : ((n - 1 : Nat) : ℚ) ≠ 0 := Nat.cast_ne_zero.2 h0.ne'
    rw [timeValue_last d (by omega), exactStep, mul_div_cancel₀ _ hcount]
    linarith

theorem timeValue_lt_succ {k : Nat} (hk : k + 1 < n) : f64Rat (timeValue k d n) < f64Rat (timeValue (k + 1) d n) := by
  obtain ⟨-, -, -, -, -, -, hlimit⟩ := axis_some h
  obtain ⟨hlow, -⟩ := exactStep_bounds h (by omega)
  have hupper := timeValue_le h hk
  have hlower := le_timeValue h k.succ_pos hk
  have hpos : 0 < exactStep d n := lt_of_lt_of_le (by norm_num) hlow
  have hle : (k : ℚ) ≤ 2 ^ 32 := by exact_mod_cast (by omega : k ≤ 2 ^ 32)
  have hgap : (k : ℚ) * ((1 + 1 / 2 ^ 53) * (1 + 1 / 2 ^ 53)) <
      (k + 1) * ((1 - 1 / 2 ^ 53) * (1 - 1 / 2 ^ 53)) := by linarith
  have hscaled := mul_lt_mul_of_pos_right hgap hpos
  push_cast at hlower
  linarith

end

/-- Settles O54: the three branches of `timeValue`, and the rise by the relative errors. -/
theorem timeAxisRisesStrictly : Obligations.TimeAxisRisesStrictly := by
  refine ⟨fun m hm => f64OfNat_exact hm, fun d => timeValue_zero d 1, fun k d n h0 hk => timeValue_between d h0 hk,
    fun b d n h => ⟨timeValue_zero d n, fun hn => timeValue_last d hn, fun k hk => ?_⟩⟩
  obtain ⟨hfin, -⟩ := timeValue_bounds h (k := k) (by omega)
  obtain ⟨hfin', -⟩ := timeValue_bounds h (k := k + 1) hk
  rw [lt64_iff (isNaN_of_isFinite hfin) (isNaN_of_isFinite hfin')]
  exact timeValue_lt_succ h hk

end Sys2Proof.Machine
end

section
/-! PROOFS. The phase of the oscillator (spec/43_oscillator.md R132): it is computed exactly, because the fractional
part of a binary64 value is one; and the products of a frequency and a time are finite. -/

namespace Sys2Proof.Machine

/-! ### The fractional part is representable (R132) -/

/-- A finite magnitude is a mantissa below 2^53 and a shift. -/
theorem exists_mantissa_shift {m : Nat} (h : m < infMag) : ∃ k < 2 ^ 53, ∃ e ≤ 2045, unitsOfMag m = k * 2 ^ e := by
  have hinf := infMag_eq
  by_cases hsub : m < 2 ^ 52
  · exact ⟨m, by omega, 0, by omega, by rw [unitsOfMag_subnormal hsub, pow_zero, Nat.mul_one]⟩
  · exact ⟨2 ^ 52 + m % 2 ^ 52, by omega, m / 2 ^ 52 - 1, by omega, unitsOfMag_normal (by omega)⟩

/-- The rest modulo a power of two keeps the shift. -/
theorem exists_mul_two_pow_mod {k e : Nat} (c : Nat) (hk : k < 2 ^ 53) :
    ∃ j < 2 ^ 53, k * 2 ^ e % 2 ^ c = j * 2 ^ e := by
  rcases le_total c e with hle | hle
  · exact ⟨0, by norm_num, by rw [Nat.zero_mul, Nat.mod_eq_zero_of_dvd (Dvd.dvd.mul_left (pow_dvd_pow 2 hle) k)]⟩
  · obtain ⟨g, rfl⟩ := Nat.exists_eq_add_of_le' hle
    exact ⟨k % 2 ^ g, (Nat.mod_le k _).trans_lt hk, by rw [pow_add, Nat.mul_mod_mul_right]⟩

theorem exists_unitsOfMag_eq_mod {m : Nat} (h : m < infMag) :
    ∃ j < infMag, unitsOfMag j = unitsOfMag m % unitsPerOne := by
  obtain ⟨k, hk, e, he, hm⟩ := exists_mantissa_shift h
  obtain ⟨j, hj, hmod⟩ := exists_mul_two_pow_mod (e := e) 1074 hk
  rw [hm, unitsPerOne, hmod]
  exact exists_unitsOfMag_eq_mul_two_pow hj he

/-! ### The phase -/

/-- What R132 and R133 compute as the phase of `x`. -/
def fractional (x : F64) : F64 := sub64 x (floor64 x)

theorem phaseOf_eq (f t : F64) : phaseOf f t = fractional (mul64 f t) := rfl

section
variable {x : F64} (hx : isFinite x = true) (h0 : 0 ≤ f64Rat x)
include hx h0

/-- The difference in units. -/
theorem f64Int_sub_floor : f64Int x + f64Int (neg64 (floor64 x)) = ((f64Units x % unitsPerOne : Nat) : Int) := by
  have hint : f64Int x = f64Units x := by
    have hnonneg := f64Rat_nonneg_iff.1 h0
    have habs := natAbs_f64Int x
    omega
  rw [f64Int_neg64, (floor64_of_isFinite hx).2, hint, ← sub_eq_add_neg, Int.natCast_mod, Int.emod_def]
  ring

/-- The rounding of the difference does nothing, and a zero difference is +0.0: floor and operand have one sign. -/
theorem exists_fractional_eq :
    ∃ m < infMag, unitsOfMag m = f64Units x % unitsPerOne ∧ fractional x = packF64 false m := by
  obtain ⟨m, hm, hunits⟩ := exists_unitsOfMag_eq_mod (isFinite_iff.1 hx)
  have hfloor := (floor64_of_isFinite hx).1
  refine ⟨m, hm, hunits, ?_⟩
  rw [fractional, sub64_of_isFinite hx hfloor, addCore_of_isFinite hx ((isFinite_neg64 _).trans hfloor),
    f64Int_sub_floor hx h0, f64Units, ← hunits]
  split
  next hzero =>
    have hmag : m = 0 := unitsOfMag_strictMono.injective (Int.ofNat_eq_zero.1 hzero)
    have hsign : f64Neg (floor64 x) = f64Neg x := by
      rw [floor64_eq_packF64 hx, f64Neg_packF64 _ (roundMag_le_infMag _ _)]
    rw [f64Neg_neg64, hsign, Bool.and_not_self, hmag]
  next =>
    have hexact := roundMag_exact hm.le Nat.one_pos
    rw [Nat.mul_one] at hexact
    rw [Int.natAbs_natCast, hexact, decide_eq_false (Int.natCast_nonneg _).not_gt]

theorem fract_f64Rat : Int.fract (f64Rat x) = ((f64Units x % unitsPerOne : Nat) : ℚ) / unitScale := by
  have hone := unitScale_pos
  rw [Int.fract, ← f64Rat_floor64 hx, f64Rat_eq_div_unitScale, f64Rat_eq_div_unitScale, ← sub_div, ← Int.cast_sub,
    sub_eq_add_neg, ← f64Int_neg64, f64Int_sub_floor hx h0, Int.cast_natCast]

/-- The phase is exactly the fractional part, and is not -0.0. -/
theorem fractional_spec :
    isFinite (fractional x) = true ∧ f64Neg (fractional x) = false ∧ f64Rat (fractional x) = Int.fract (f64Rat x) := by
  obtain ⟨m, hm, hunits, heq⟩ := exists_fractional_eq hx h0
  rw [heq, fract_f64Rat hx h0, ← hunits, f64Rat_packF64 false hm.le, signFactor, if_neg Bool.false_ne_true, one_mul]
  exact ⟨isFinite_packF64 false hm, f64Neg_packF64 false hm.le, rfl⟩

theorem fractional_range : 0 ≤ f64Rat (fractional x) ∧ f64Rat (fractional x) < 1 := by
  obtain ⟨-, -, heq⟩ := fractional_spec hx h0
  rw [heq]
  exact ⟨Int.fract_nonneg _, Int.fract_lt_one _⟩

end

/-! ### The frequencies and the products with a time -/

/-- The frequencies are at most 512, and the products with 2π at most 4096. -/
theorem promTable_getElem_frequency :
    ∀ (i : Nat) (hi : i < promTable.length),
      (isFinite promTable[i] = true ∧ 0 ≤ f64Int promTable[i] ∧
        f64Int promTable[i] ≤ f64Int 0x4080000000000000#64) ∧
      (isFinite (mul64 twoPi64 promTable[i]) = true ∧ 0 ≤ f64Int (mul64 twoPi64 promTable[i]) ∧
        f64Int (mul64 twoPi64 promTable[i]) ≤ f64Int 0x40B0000000000000#64) := by decide +kernel

/-- The products with the time of the first sample. -/
theorem promTable_getElem_mul64_zero64 :
    ∀ (i : Nat) (hi : i < promTable.length),
      mul64 promTable[i] zero64 = zero64 ∧ mul64 (mul64 twoPi64 promTable[i]) zero64 = zero64 := by decide +kernel

theorem f64Rat_512 : f64Rat 0x4080000000000000#64 = 512 := f64Rat_of_f64Int_eq_mul (k := 512) (by decide +kernel)

theorem f64Rat_4096 : f64Rat 0x40B0000000000000#64 = 4096 := f64Rat_of_f64Int_eq_mul (k := 4096) (by decide +kernel)

/-- A frequency of the ROM is finite, and at most 512. -/
theorem frequency_bounds {c : Nat} {f : F64} (h : promTable[c]? = some f) :
    isFinite f = true ∧ 0 ≤ f64Rat f ∧ f64Rat f ≤ 512 := by
  obtain ⟨hc, rfl⟩ := List.getElem?_eq_some_iff.1 h
  obtain ⟨⟨hfin, hlow, hhigh⟩, -⟩ := promTable_getElem_frequency c hc
  rw [← f64Rat_512]
  exact ⟨hfin, f64Rat_nonneg_iff.2 hlow, f64Rat_le_iff.2 hhigh⟩

/-- In radians a second. -/
theorem angularFrequency_bounds {c : Nat} {f : F64} (h : promTable[c]? = some f) :
    isFinite (mul64 twoPi64 f) = true ∧ 0 ≤ f64Rat (mul64 twoPi64 f) ∧ f64Rat (mul64 twoPi64 f) ≤ 4096 := by
  obtain ⟨hc, rfl⟩ := List.getElem?_eq_some_iff.1 h
  obtain ⟨-, hfin, hlow, hhigh⟩ := promTable_getElem_frequency c hc
  rw [← f64Rat_4096]
  exact ⟨hfin, f64Rat_nonneg_iff.2 hlow, f64Rat_le_iff.2 hhigh⟩

theorem mul64_frequency_zero64 {c : Nat} {f : F64} (h : promTable[c]? = some f) :
    mul64 f zero64 = zero64 ∧ mul64 (mul64 twoPi64 f) zero64 = zero64 := by
  obtain ⟨hc, rfl⟩ := List.getElem?_eq_some_iff.1 h
  exact promTable_getElem_mul64_zero64 c hc

/-- A product of two bounded values that are not negative is finite and not negative. The literal is 2^64. -/
theorem mul64_bounded {x y : F64} {p q : ℚ} (hx : isFinite x = true) (hy : isFinite y = true) (hx0 : 0 ≤ f64Rat x)
    (hy0 : 0 ≤ f64Rat y) (hxp : f64Rat x ≤ p) (hyq : f64Rat y ≤ q) (hpq : p * q ≤ 2 ^ 64) :
    isFinite (mul64 x y) = true ∧ 0 ≤ f64Rat (mul64 x y) := by
  have hliteral : f64Rat 0x43F0000000000000#64 = (2 ^ 64 : Int) := f64Rat_of_f64Int_eq_mul (by decide +kernel)
  rw [Int.cast_pow, Int.cast_ofNat] at hliteral
  have hproduct : f64Rat x * f64Rat y ≤ p * q := mul_le_mul hxp hyq hy0 (hx0.trans hxp)
  obtain ⟨hfin, hnonneg, -⟩ := (mul64_isRounded hx hy).bounded (y := 0x43F0000000000000#64) (by decide)
    (mul_nonneg hx0 hy0) (by rw [hliteral]; exact hproduct.trans hpq)
  exact ⟨hfin, hnonneg⟩

section
variable {b d f : F64} {c n k : Nat} (hf : promTable[c]? = some f) (h : axis b = some (d, n)) (hk : k < n)
include hf h hk

theorem mul64_frequency_time :
    isFinite (mul64 f (timeValue k d n)) = true ∧ 0 ≤ f64Rat (mul64 f (timeValue k d n)) := by
  obtain ⟨hffin, hf0, hf512⟩ := frequency_bounds hf
  obtain ⟨htfin, ht0, ht50⟩ := timeValue_bounds h hk
  exact mul64_bounded hffin htfin hf0 ht0 hf512 ht50 (by norm_num)

/-- The phase of a note at a time of the axis. -/
theorem phaseOf_range :
    isFinite (phaseOf f (timeValue k d n)) = true ∧ 0 ≤ f64Rat (phaseOf f (timeValue k d n)) ∧
      f64Rat (phaseOf f (timeValue k d n)) < 1 := by
  obtain ⟨hfin, h0⟩ := mul64_frequency_time hf h hk
  obtain ⟨hphase, -⟩ := fractional_spec hfin h0
  exact ⟨hphase, fractional_range hfin h0⟩

/-- The argument of the sine. -/
theorem isFinite_angle : isFinite (mul64 (mul64 twoPi64 f) (timeValue k d n)) = true := by
  obtain ⟨hfin, h0, h4096⟩ := angularFrequency_bounds hf
  obtain ⟨htfin, ht0, ht50⟩ := timeValue_bounds h hk
  exact (mul64_bounded hfin htfin h0 ht0 h4096 ht50 (by norm_num)).1

end

end Sys2Proof.Machine
end

section
/-! PROOFS. The samples of the oscillator (spec/43_oscillator.md): the formulas, the unit range by monotone rounding,
operation by operation, and the first sample. -/

namespace Sys2Proof.Machine

/-! ### The pulse (R132, R136) -/

theorem pulseSample_eq {f t u : F64} (hp : isFinite (phaseOf f t) = true) (hu : isFinite u = true) :
    pulseSample f t u = if f64Rat (phaseOf f t) < f64Rat u then one64 else minusOne64 := by
  rw [pulseSample]
  exact if_congr (lt64_iff (isNaN_of_isFinite hp) (isNaN_of_isFinite hu)) rfl rfl

/-- Settles O56: the phase is in [0, 1). -/
theorem pulseDegeneratesToAConstant : Obligations.PulseDegeneratesToAConstant := by
  intro c f b d u n k _ _ hf h hk hu
  obtain ⟨hp, hlow, hhigh⟩ := phaseOf_range hf h hk
  rw [pulseSample_eq hp hu]
  constructor
  · intro hle
    have hduty := (le64_iff (b := zero64) (isNaN_of_isFinite hu) (by decide)).1 hle
    rw [f64Rat_zero64] at hduty
    exact if_neg (hduty.trans hlow).not_gt
  · intro hle
    have hduty := (le64_iff (a := one64) (by decide) (isNaN_of_isFinite hu)).1 hle
    rw [f64Rat_one64] at hduty
    exact if_pos (hhigh.trans_le hduty)

/-! ### The sawtooth (R133) -/

theorem sawSample_eq {f t w : F64} (hp : isFinite (phaseOf f t) = true) (hw : isFinite w = true) :
    sawSample f t w =
      if f64Rat (phaseOf f t) < f64Rat w then sub64 (mul64 two64 (div64 (phaseOf f t) w)) one64
      else sub64 one64 (mul64 two64 (div64 (sub64 (phaseOf f t) w) (sub64 one64 w))) := by
  rw [sawSample]
  exact if_congr (lt64_iff (isNaN_of_isFinite hp) (isNaN_of_isFinite hw)) rfl rfl

/-- R139 in rational numbers. -/
theorem inUnitRange_of_bounds {x : F64} (hnan : isNaN x = false) (hlow : -1 ≤ f64Rat x) (hhigh : f64Rat x ≤ 1) :
    inUnitRange x = true := by
  rw [inUnitRange_iff, le64_iff (by decide) hnan, le64_iff hnan (by decide), f64Rat_minusOne64, f64Rat_one64]
  refine ⟨isFinite_of_abs_le (b := one64) (by decide) ?_, hlow, hhigh⟩
  rw [f64Rat_one64, abs_one]
  exact abs_le.2 ⟨hlow, hhigh⟩

/-- A quotient in [0, 1], doubled: in [0, 2]. -/
theorem mul64_two64_div64_bounds {x y : F64} (hx : isFinite x = true) (hy : isFinite y = true) (h0 : 0 ≤ f64Rat x)
    (hpos : 0 < f64Rat y) (hle : f64Rat x ≤ f64Rat y) :
    isFinite (mul64 two64 (div64 x y)) = true ∧ 0 ≤ f64Rat (mul64 two64 (div64 x y)) ∧
      f64Rat (mul64 two64 (div64 x y)) ≤ 2 := by
  obtain ⟨hfin, hnonneg, hone⟩ := (div64_isRounded hx hy (isZero_eq_false_of_pos hpos)).bounded (y := one64)
    (by decide) (div_nonneg h0 hpos.le) (by rw [f64Rat_one64, div_le_one hpos]; exact hle)
  rw [f64Rat_one64] at hone
  have hproduct := mul64_isRounded (a := two64) (by decide) hfin
  rw [f64Rat_two64] at hproduct
  have hbounded := hproduct.bounded (y := two64) (by decide) (by linarith) (by rw [f64Rat_two64]; linarith)
  rwa [f64Rat_two64] at hbounded

/-- The last operation of either ramp. -/
theorem inUnitRange_sub64_one64 {y : F64} (hy : isFinite y = true) (h0 : 0 ≤ f64Rat y) (h2 : f64Rat y ≤ 2) :
    inUnitRange (sub64 y one64) = true ∧ inUnitRange (sub64 one64 y) = true := by
  have hrising := sub64_isRounded (b := one64) hy (by decide)
  have hfalling := sub64_isRounded (a := one64) (by decide) hy
  rw [f64Rat_one64] at hrising hfalling
  have hin {x : F64} {r : ℚ} (hround : IsRounded x r) (hlow : -1 ≤ r) (hhigh : r ≤ 1) : inUnitRange x = true := by
    have hge := hround.ge_of_ge (y := minusOne64) (by decide) (by rwa [f64Rat_minusOne64])
    have hle := hround.le_of_le (y := one64) (by decide) (by rwa [f64Rat_one64])
    rw [f64Rat_minusOne64] at hge
    rw [f64Rat_one64] at hle
    exact inUnitRange_of_bounds hround.isNaN_eq_false hge hle
  exact ⟨hin hrising (by linarith) (by linarith), hin hfalling (by linarith) (by linarith)⟩

theorem two_pow_sub_div (g e : Nat) : (((2 ^ 53 - 1) * 2 ^ (g + e) : Nat) : ℚ) / 2 ^ e = 2 ^ (53 + g) - 2 ^ g := by
  rw [pow_add, pow_add]
  push_cast
  rw [← mul_assoc, mul_div_cancel_right₀ _ (by positivity)]
  norm_num
  ring

/-- The largest finite value. -/
theorem abs_f64Rat_le {a : F64} (h : isFinite a = true) : |f64Rat a| ≤ 2 ^ 1024 - 2 ^ 971 := by
  have hinf := infMag_eq
  have hmag := isFinite_iff.1 h
  have hlargest : unitsOfMag (2045 * 2 ^ 52 + (2 ^ 53 - 1)) = (2 ^ 53 - 1) * 2 ^ 2045 :=
    unitsOfMag_mantissa (by norm_num) (by norm_num)
  have hunits : f64Units a ≤ (2 ^ 53 - 1) * 2 ^ (971 + 1074) := by
    rw [← hlargest]
    exact unitsOfMag_strictMono.monotone (by omega)
  rw [abs_f64Rat, ← two_pow_sub_div 971 1074, unitScale]
  exact div_le_div_of_nonneg_right (Nat.cast_le.2 hunits) (pow_nonneg two_pos.le _)

/-- Two values that differ, do so by at least the smallest positive one. -/
theorem smallest_le_sub {a b : F64} (h : f64Rat b < f64Rat a) : f64Rat (packF64 false 1) ≤ f64Rat a - f64Rat b := by
  rw [f64Rat_lt_iff] at h
  rw [f64Rat_eq_div_unitScale, f64Rat_eq_div_unitScale, f64Rat_eq_div_unitScale, ← sub_div, ← Int.cast_sub,
    div_le_div_iff_of_pos_right unitScale_pos, Int.cast_le, show f64Int (packF64 false 1) = 1 by decide]
  omega

theorem smallest_pos : 0 < f64Rat (packF64 false 1) := by
  rw [← f64Rat_zero64, f64Rat_lt_iff]
  decide

/-- 1 - w for a finite width below 1 is finite and does not round to 0. -/
theorem sub64_one64_bounds {w : F64} (hw : isFinite w = true) (hlt : f64Rat w < 1) :
    isFinite (sub64 one64 w) = true ∧ 0 < f64Rat (sub64 one64 w) := by
  have hround := sub64_isRounded (a := one64) (by decide) hw
  rw [← f64Rat_one64] at hlt
  refine ⟨(hround.roundsTo.1 ?limit).1, smallest_pos.trans_le (hround.ge_of_ge (by decide) (smallest_le_sub hlt))⟩
  have hmax := abs_le.1 (abs_f64Rat_le hw)
  have hhalf : (2 : ℚ) ^ 971 = 2 ^ 970 * 2 := pow_succ 2 970
  have hroom : (1 : ℚ) < 2 ^ 970 := one_lt_pow₀ one_lt_two (by norm_num)
  rw [f64Rat_one64] at hlt ⊢
  generalize (2 : ℚ) ^ 971 = last at *
  generalize (2 : ℚ) ^ 970 = half at *
  generalize (2 : ℚ) ^ 1024 = top at *
  obtain ⟨hlow, -⟩ := hmax
  rw [abs_of_pos (sub_pos.2 hlt)]
  linarith

/-- R139 for the sawtooth: on either ramp the quotient is in [0, 1]. -/
theorem inUnitRange_sawSample {f t w : F64} (hp : isFinite (phaseOf f t) = true) (h0 : 0 ≤ f64Rat (phaseOf f t))
    (h1 : f64Rat (phaseOf f t) < 1) (hw : isFinite w = true) : inUnitRange (sawSample f t w) = true := by
  rw [sawSample_eq hp hw]
  split
  next hrising =>
    obtain ⟨hfin, hlow, hhigh⟩ := mul64_two64_div64_bounds hp hw h0 (h0.trans_lt hrising) hrising.le
    exact (inUnitRange_sub64_one64 hfin hlow hhigh).1
  next hfalling =>
    have hwp := not_lt.1 hfalling
    obtain ⟨hden, hdenpos⟩ := sub64_one64_bounds hw (hwp.trans_lt h1)
    have hdenRound := sub64_isRounded (a := one64) (by decide) hw
    have hnumRound := sub64_isRounded hp hw
    have hnonneg := hnumRound.nonneg (sub_nonneg.2 hwp)
    have hle := hnumRound.mono hdenRound (by rw [f64Rat_one64]; linarith)
    have hnum : isFinite (sub64 (phaseOf f t) w) = true :=
      isFinite_of_abs_le hden (by rwa [abs_of_nonneg hnonneg, abs_of_pos hdenpos])
    obtain ⟨hfin, hlow, hhigh⟩ := mul64_two64_div64_bounds hnum hden hnonneg hdenpos hle
    exact (inUnitRange_sub64_one64 hfin hlow hhigh).2

/-- R139 for every shape; a rest is +0.0. -/
theorem inUnitRange_oscSample {w : Wave} {c n k : Nat} {f b d : F64} {s : State} (hf : promTable[c]? = some f)
    (h : axis b = some (d, n)) (hk : k < n) (hparam : shapeParamOk w s = true) :
    inUnitRange (oscSample w c f (timeValue k d n) s) = true := by
  obtain ⟨hp, hlow, hhigh⟩ := phaseOf_range hf h hk
  unfold oscSample
  split
  · exact inUnitRange_zero64
  · cases w with
    | sine => exact inUnitRange_sin64 (isFinite_angle hf h hk)
    | pulse =>
      show inUnitRange (pulseSample f _ s.duty) = true
      rw [pulseSample_eq hp hparam]
      split <;> decide +kernel
    | saw => exact inUnitRange_sawSample hp hlow hhigh hparam

/-- Settles O57. -/
theorem oscillatorSamplesLieInTheUnitRange : Obligations.OscillatorSamplesLieInTheUnitRange :=
  fun _ _ _ _ _ _ _ _ _ hf h hk hparam => inUnitRange_iff.1 (inUnitRange_oscSample hf h hk hparam)

/-! ### The first sample (R131 to R133) -/

theorem phaseOf_zero64 {c : Nat} {f : F64} (hf : promTable[c]? = some f) : phaseOf f zero64 = zero64 := by
  rw [phaseOf_eq, (mul64_frequency_zero64 hf).1]
  decide +kernel

theorem div64_zero64 {w : F64} (hw : isFinite w = true) (hpos : 0 < f64Rat w) : div64 zero64 w = zero64 := by
  have hneg : f64Neg w = false := by
    cases hneg : f64Neg w with
    | false => rfl
    | true =>
      have hint := f64Int_of_neg hneg
      have hnonneg := f64Rat_nonneg_iff.1 hpos.le
      rw [← f64Rat_zero64, f64Rat_lt_iff] at hpos
      rw [show f64Int zero64 = 0 from rfl] at hpos
      omega
  have hunits : 0 < f64Units w :=
    Nat.pos_of_ne_zero fun h => (not_busy_and_idle (isZero_iff.2 h) (isZero_eq_false_of_pos hpos)).elim
  rw [div64_of_isFinite (by decide) hw (isZero_eq_false_of_pos hpos), show f64Units zero64 = 0 from rfl, Nat.zero_mul,
    roundMag_zero hunits, hneg]
  decide

/-- The two zeros. -/
theorem eq_of_isZero {u : F64} (h : isZero u = true) : u = packF64 false 0 ∨ u = packF64 true 0 := by
  have hmag : f64Mag u = 0 := of_decide_eq_true h
  rw [← packF64_f64Neg_f64Mag u, hmag]
  cases f64Neg u with
  | false => exact .inl rfl
  | true => exact .inr rfl

/-- The sawtooth at phase +0.0 and width 0, of either sign, starts on the falling ramp. -/
theorem falling_ramp_zero :
    ∀ neg : Bool, sub64 one64 (mul64 two64 (div64 (sub64 zero64 (packF64 neg 0)) (sub64 one64 (packF64 neg 0)))) =
      one64 := by decide +kernel

theorem sawSample_zero64_of_isZero {c : Nat} {f u : F64} (hf : promTable[c]? = some f) (hu : isZero u = true) :
    sawSample f zero64 u = one64 := by
  have hramp (neg : Bool) : sawSample f zero64 (packF64 neg 0) = one64 := by
    have hnot : lt64 zero64 (packF64 neg 0) = false := by cases neg <;> decide
    rw [sawSample, phaseOf_zero64 hf, hnot]
    exact (if_neg Bool.false_ne_true).trans (falling_ramp_zero neg)
  rcases eq_of_isZero hu with rfl | rfl
  · exact hramp false
  · exact hramp true

/-- Settles O55: at time +0.0 the angle and the phase are +0.0, and the rest is evaluated. -/
theorem firstSampleOfANote : Obligations.FirstSampleOfANote := by
  intro c f u _ _ hf hu
  have hphase := phaseOf_zero64 hf
  have hfin : isFinite (phaseOf f zero64) = true := by rw [hphase]; decide
  have hpositive (hlt : lt64 zero64 u = true) : 0 < f64Rat u := by
    rwa [lt64_iff (by decide) (isNaN_of_isFinite hu), f64Rat_zero64] at hlt
  refine ⟨?sine, fun hlt => ?pulse, fun hlt => ?rising, fun hzero => sawSample_zero64_of_isZero hf hzero⟩
  case sine =>
    exact (congrArg sin64 (mul64_frequency_zero64 hf).2).trans sin64_zero64
  case pulse =>
    refine (pulseSample_eq hfin hu).trans (if_pos ?_)
    rw [hphase, f64Rat_zero64]
    exact hpositive hlt
  case rising =>
    refine (sawSample_eq hfin hu).trans ((if_pos ?_).trans ?_)
    · rw [hphase, f64Rat_zero64]
      exact hpositive hlt
    · rw [hphase, div64_zero64 hu (hpositive hlt)]
      decide +kernel

/-! ### TWO_PI (R12) -/

/-- The half-way points from `TWO_PI` to its neighbours, against 20 digits of π. -/
theorem twoPi64_halfways :
    (unitsBelow twoPi64 + f64Units twoPi64) * 10 ^ 20 ≤ 4 * unitsPerOne * 314159265358979323846 ∧
      4 * unitsPerOne * 314159265358979323847 ≤ (f64Units twoPi64 + unitsAbove twoPi64) * 10 ^ 20 := by decide +kernel

theorem betweenHalfways_twoPi64 : BetweenHalfways twoPi64 (2 * Real.pi) := by
  obtain ⟨hlow, hhigh⟩ := twoPi64_halfways
  have hpi : (314159265358979323846 : ℝ) ≤ Real.pi * 10 ^ 20 := by
    have := Real.pi_gt_d20
    linarith
  have hpi' : Real.pi * 10 ^ 20 ≤ (314159265358979323847 : ℝ) := by
    have := Real.pi_lt_d20
    linarith
  have hlowR : (((unitsBelow twoPi64 + f64Units twoPi64 : Nat) : ℝ)) * 10 ^ 20 ≤
      4 * (unitsPerOne : ℝ) * 314159265358979323846 := by exact_mod_cast hlow
  have hhighR : 4 * (unitsPerOne : ℝ) * 314159265358979323847 ≤
      ((f64Units twoPi64 + unitsAbove twoPi64 : Nat) : ℝ) * 10 ^ 20 := by exact_mod_cast hhigh
  have hone : (0 : ℝ) ≤ 4 * unitsPerOne := mul_nonneg (by norm_num) (Nat.cast_nonneg _)
  have hscaled := mul_le_mul_of_nonneg_left hpi hone
  have hscaled' := mul_le_mul_of_nonneg_left hpi' hone
  rw [BetweenHalfways]
  generalize ((unitsBelow twoPi64 + f64Units twoPi64 : Nat) : ℝ) = low at *
  generalize ((f64Units twoPi64 + unitsAbove twoPi64 : Nat) : ℝ) = high at *
  generalize (unitsPerOne : ℝ) = one at *
  constructor <;> linarith

/-- Settles O60: TWO_PI by its half-way points, the phase by `fractional_spec`, the samples by their equations. -/
theorem samplesFollowTheirFormulas : Obligations.SamplesFollowTheirFormulas := by
  refine ⟨fun y _ => nearest_of_betweenHalfways (by decide) (by decide) betweenHalfways_twoPi64 y, fun _ _ => rfl,
    fun c f b d n k _ _ hf h hk => ?times, fun f t hfin hle => ?formulas⟩
  case times =>
    obtain ⟨hfin, h0⟩ := mul64_frequency_time hf h hk
    refine ⟨hfin, (le64_iff (a := zero64) (by decide) (isNaN_of_isFinite hfin)).2 ?_⟩
    rwa [f64Rat_zero64]
  case formulas =>
    have h0 := (le64_iff (a := zero64) (by decide) (isNaN_of_isFinite hfin)).1 hle
    rw [f64Rat_zero64] at h0
    obtain ⟨hp, hsign, hvalue⟩ := fractional_spec hfin h0
    obtain ⟨hlow, hhigh⟩ := fractional_range hfin h0
    exact ⟨phaseOf f t, hp, hsign, hvalue, hlow, hhigh, fun u hu => pulseSample_eq hp hu,
      fun w hw => sawSample_eq hp hw⟩

end Sys2Proof.Machine
end
